-- ==== Sys2Proof/Word.lean ====
section
/-! DEFINITION. The word types of the chip8go core (spec/00_scope.md R5, spec/30_encoding.md R46). -/

namespace Sys2Proof

/-- An 8-bit value: a general register, a timer, a memory cell, a framebuffer byte (R5). -/
abbrev Byte := BitVec 8

/-- A 16-bit value: the program counter, the index register, a return address, an instruction word (R5). -/
abbrev Word := BitVec 16

/-- A 4-bit register field, `x` or `y` of an instruction word (R46). -/
abbrev RegIdx := BitVec 4

/-- A 12-bit address field, `nnn` of an instruction word (R46). -/
abbrev Addr12 := BitVec 12

/-- The number of bytes of memory, addresses 0x000 to 0xFFF (R5, MEM_SIZE). -/
abbrev memSize : Nat := 4096

/-- The address a program is loaded at (R5, PROG_BASE). -/
abbrev progBase : Nat := 0x200

/-- The greatest length of a loaded program (R5, MAX_ROM). -/
abbrev maxRom : Nat := 3584

end Sys2Proof
end

