-- ==== Sys2Proof/Syntax.lean ====
section
/-! DEFINITION. The instruction set: one constructor per row of spec/opcode_table.json, in the order of
spec/30_encoding.md R48. Every field of the word is kept, used or not, so that an instruction has one word. -/

namespace Sys2Proof

/-- The 35 instructions of R48. `x`, `y` are register fields, `kk` an immediate, `nnn` an address, `n` a height
(R46). A word that is none of them is unrecognised (R49) and is no term of this type. -/
inductive Instr where
  /-- `00E0` CLS -/
  | cls
  /-- `00EE` RET -/
  | ret
  /-- `0nnn` SYS nnn -/
  | sys (nnn : Addr12)
  /-- `1nnn` JP nnn -/
  | jp (nnn : Addr12)
  /-- `2nnn` CALL nnn -/
  | call (nnn : Addr12)
  /-- `3xkk` SE Vx, kk -/
  | seImm (x : RegIdx) (kk : Byte)
  /-- `4xkk` SNE Vx, kk -/
  | sneImm (x : RegIdx) (kk : Byte)
  /-- `5xy0` SE Vx, Vy -/
  | seReg (x y : RegIdx)
  /-- `6xkk` LD Vx, kk -/
  | ldImm (x : RegIdx) (kk : Byte)
  /-- `7xkk` ADD Vx, kk -/
  | addImm (x : RegIdx) (kk : Byte)
  /-- `8xy0` LD Vx, Vy -/
  | ldReg (x y : RegIdx)
  /-- `8xy1` OR Vx, Vy -/
  | orReg (x y : RegIdx)
  /-- `8xy2` AND Vx, Vy -/
  | andReg (x y : RegIdx)
  /-- `8xy3` XOR Vx, Vy -/
  | xorReg (x y : RegIdx)
  /-- `8xy4` ADD Vx, Vy -/
  | addReg (x y : RegIdx)
  /-- `8xy5` SUB Vx, Vy -/
  | subReg (x y : RegIdx)
  /-- `8xy6` SHR Vx -/
  | shr (x y : RegIdx)
  /-- `8xy7` SUBN Vx, Vy -/
  | subn (x y : RegIdx)
  /-- `8xyE` SHL Vx -/
  | shl (x y : RegIdx)
  /-- `9xy0` SNE Vx, Vy -/
  | sneReg (x y : RegIdx)
  /-- `Annn` LD I, nnn -/
  | ldI (nnn : Addr12)
  /-- `Bnnn` JP V0, nnn -/
  | jpV0 (nnn : Addr12)
  /-- `Cxkk` RND Vx, kk -/
  | rnd (x : RegIdx) (kk : Byte)
  /-- `Dxyn` DRW Vx, Vy, n -/
  | drw (x y n : BitVec 4)
  /-- `Ex9E` SKP Vx -/
  | skp (x : RegIdx)
  /-- `ExA1` SKNP Vx -/
  | sknp (x : RegIdx)
  /-- `Fx07` LD Vx, DT -/
  | ldVxDt (x : RegIdx)
  /-- `Fx0A` LD Vx, K -/
  | ldVxK (x : RegIdx)
  /-- `Fx15` LD DT, Vx -/
  | ldDtVx (x : RegIdx)
  /-- `Fx18` LD ST, Vx -/
  | ldStVx (x : RegIdx)
  /-- `Fx1E` ADD I, Vx -/
  | addI (x : RegIdx)
  /-- `Fx29` LD F, Vx -/
  | ldF (x : RegIdx)
  /-- `Fx33` LD B, Vx -/
  | ldB (x : RegIdx)
  /-- `Fx55` LD [I], Vx -/
  | storeRegs (x : RegIdx)
  /-- `Fx65` LD Vx, [I] -/
  | loadRegs (x : RegIdx)
deriving DecidableEq, Repr

end Sys2Proof
end

