-- ==== Sys2Proof/Config.lean ====
section
/-! DEFINITION. What an implementation fixes (spec/00_scope.md R6), the host's answers (R7), and the free values. -/

namespace Sys2Proof

/-- The policy of one axis of the draw (R6, R79). -/
inductive WrapPolicy where
  | wrap
  | clip
  | fault
deriving DecidableEq, Repr, Inhabited

/-- The largest number of frames that may be pushed, 15 or 16 (R6, R15). -/
inductive StackLimit where
  | fifteen
  | sixteen
deriving DecidableEq, Repr, Inhabited

/-- STACK_LIMIT as a number. -/
def StackLimit.toNat : StackLimit → Nat
  | .fifteen => 15
  | .sixteen => 16

/-- Which register the shifts read (R6, R71, R73). -/
inductive ShiftSource where
  | x
  | y
deriving DecidableEq, Repr, Inhabited

/-- The configuration of R6, passed in at construction and fixed for the run. FONT and the rom are not here: they
are the arguments of the construction (`Machine.construct`), and show only as memory. -/
structure Config where
  /-- XWRAP -/
  xwrap : WrapPolicy
  /-- YWRAP -/
  ywrap : WrapPolicy
  /-- DEPTH, at least 1 -/
  depth : Nat
  /-- TIMER_RATIO, at least 1 -/
  timerRatio : Nat
  /-- STACK_LIMIT -/
  stackLimit : StackLimit
  /-- SHIFT_SOURCE -/
  shiftSource : ShiftSource
  /-- DRAW_FLAG_ON_CLS -/
  drawFlagOnCls : Bool
  /-- DRAW_FLAG_ON_SUPPRESSED -/
  drawFlagOnSuppressed : Bool
deriving DecidableEq, Repr

/-- The two bounds R6 puts on a configuration. -/
abbrev Config.Legal (c : Config) : Prop := 1 ≤ c.depth ∧ 1 ≤ c.timerRatio

/-- One answer of the key-wait port (R122): the host has not answered yet, or it answers a key and a quit flag.
`key` is a whole byte so that an answer outside the port's contract (16 or more, R86) can be written down. -/
inductive KeyWaitAnswer where
  | pending
  | answered (key : Byte) (quit : Bool)
deriving DecidableEq, Repr, Inhabited

/-- One answer of the special-poll port (R125). -/
structure PollAnswer where
  paused : Bool
  running : Bool
deriving DecidableEq, Repr, Inhabited

/-! ### The open parameters of R6 (log entry 3)

The spec gives these no value: an opaque constant each, used by the configuration at reset only. -/

/-- XWRAP of the machine at reset: OPEN (R6, D34). -/
opaque Config.openXwrap : WrapPolicy
/-- YWRAP of the machine at reset: OPEN (R6, D34). -/
opaque Config.openYwrap : WrapPolicy
/-- TIMER_RATIO of the machine at reset, less one: OPEN (R6, D25). -/
opaque Config.openTimerRatioPred : Nat
/-- DRAW_FLAG_ON_CLS of the machine at reset: OPEN (R6, D28). -/
opaque Config.openDrawFlagOnCls : Bool
/-- DRAW_FLAG_ON_SUPPRESSED of the machine at reset: OPEN (R6, D28). -/
opaque Config.openDrawFlagOnSuppressed : Bool

/-! ### The host's answers as free values (R7, log entry 4)

Each is applied to a counter in State, so every draw is fresh and nothing is known of it. -/

/-- An answer of the random port, any byte (R123). -/
opaque Config.freeByte : Nat → Byte
/-- An answer of the key-query port (R121). -/
opaque Config.freeKeyDown : Nat → Bool
/-- An answer of the key-wait port inside its contract: none yet, or a key 0 to 15 and a quit flag (R122). -/
opaque Config.freeKeyWait : Nat → Option (BitVec 4 × Bool)
/-- An answer of the special-poll port (R125). -/
opaque Config.freePoll : Nat → PollAnswer

end Sys2Proof
end

