-- ==== Sys2Proof/Machine/Parameters.lean ====
section
/-! DEFINITION. The configuration of the machine at reset (spec/00_scope.md R6). -/

namespace Sys2Proof.Machine

/-- The configuration at reset: the defaults R6 gives (DEPTH 1, STACK_LIMIT 16, SHIFT_SOURCE `x`) and an opaque
constant for every parameter R6 leaves OPEN (log entry 3). -/
def resetConfig : Config where
  xwrap := Config.openXwrap
  ywrap := Config.openYwrap
  depth := 1
  timerRatio := Config.openTimerRatioPred + 1
  stackLimit := .sixteen
  shiftSource := .x
  drawFlagOnCls := Config.openDrawFlagOnCls
  drawFlagOnSuppressed := Config.openDrawFlagOnSuppressed

end Sys2Proof.Machine
end

