-- ==== Sys2Proof/Machine/State.lean ====
section
/-! DEFINITION. The state of the chip8go core (spec/10_state.md), the reasons a step stops, and the state at
reset (R28). -/

namespace Sys2Proof.Machine

/-- A raw frame or a presentable bitmap: 32 rows of 8 bytes (R20, R98). -/
abbrev Frame := Vector (Vector Byte 8) 32

/-- The frame with every pixel unlit. -/
def Frame.blank : Frame := Vector.replicate 32 (Vector.replicate 8 0#8)

/-- The bytes of memory that differ from what an unlisted address reads as (`Memory.initial`, Ops.lean), in rising
order of address (R18; the form is `Memory.wf`). -/
abbrev Memory := List Host.Cell

/-- The fatal conditions of R105 with the value each records. -/
inductive Cause where
  | stackUnderflow
  | stackOverflow
  | jumpTargetRange (target : Addr12)
  | drawFaultX (x : Byte)
  | drawFaultY (y : Byte)
  | memoryBounds (addr : Nat)
  | keyRange (key : Byte)
deriving DecidableEq, Repr

/-- The run states of R23. -/
inductive RunState where
  | running
  | paused
  | halted
  | aborted (cause : Cause)
deriving DecidableEq, Repr

/-- The kinds of output event (R27). `diagFatal` carries the cause with its recorded value, the `pc`, and the word
of the instruction, which a fetch out of bounds does not have (R106). -/
inductive Event where
  | present (bitmap : Frame)
  | bell
  | diagUnrecognised (word : Word)
  | diagFatal (cause : Cause) (pc : Word) (word : Option Word)
deriving DecidableEq, Repr

/-- The host's side of the input ports (R120): for each port the answers it will give next, in order, and a
counter. A port with no answer listed gives a free value, drawn with the counter (R7, log entry 4). The fields are
the model's own, not the spec's. -/
structure Ports where
  /-- answers of the random port, oldest first (R123) -/
  random : List Byte
  /-- answers of the key-query port (R121) -/
  keyDown : List Bool
  /-- answers of the key-wait port (R122) -/
  keyWait : List KeyWaitAnswer
  /-- answers of the special-poll port (R125) -/
  poll : List PollAnswer
  /-- the free values drawn so far -/
  freeCount : Nat
deriving DecidableEq, Repr

/-- The single aggregate of R9: the machine state (R10 to R21), the control items (R22), the run loop and the
compositor (R23 to R27), and the host's side of the input ports (R29). -/
structure State where
  /-- V0 to VF; VF is also the flag (R10, R11) -/
  v : Vector Byte 16
  /-- the index register (R12) -/
  I : Word
  /-- the program counter (R13) -/
  pc : Word
  /-- the number of pushed frames, 0 to 16 (R15, R22) -/
  sp : Nat
  /-- the 16 stack slots (R15) -/
  stack : Vector Word 16
  /-- DT, the delay timer (R16) -/
  dt : Byte
  /-- ST, the sound timer (R17) -/
  st : Byte
  /-- the 4096 bytes of memory (R18) -/
  mem : Memory
  /-- the framebuffer (R20) -/
  fb : Frame
  /-- the length of the loaded program (R21) -/
  romlength : Nat
  /-- the run state (R23) -/
  run : RunState
  /-- the run loop's timer counter (R24) -/
  tickCtr : Nat
  /-- the interpreter's draw signal (R25) -/
  drawFlag : Bool
  /-- the compositor's ring of earlier raw frames, the newest first (R26) -/
  hist : List Frame
  /-- the output event sequence, the oldest first (R27) -/
  events : List Event
  /-- the configuration, written by no instruction (R6, R22) -/
  cfg : Config
  /-- the host's side of the input ports (the model's own, R7, R29) -/
  ports : Ports
  /-- whether the key-wait call of an `Fx0A` is outstanding (the model's own, implied by R86; log entry 8) -/
  keyWaiting : Bool
deriving DecidableEq, Repr

/-- Why the machine has no further step. Both are terminal run states: "`Halted` and `Aborted` have no outgoing
transition" (R114). -/
inductive Fault where
  /-- Raised by `step` in a state whose run has ended normally (R132). Safe: the machine stops where the hardware
  does. -/
  | halted
  /-- Raised by `step` in a state whose run was aborted by a fatal condition (R108). Safe: the machine stops where
  the hardware does. -/
  | aborted (cause : Cause)
deriving DecidableEq, Repr

/-- What the model gives no meaning to. -/
inductive Refusal where
  /-- An instruction whose arm of `exec` has no meaning. Raised by no arm of this model. Safe. -/
  | notModelled (mnemonic : String)
  /-- Raised by `LD Vx, K` when the host answers the wait with a key of 16 or more and no quit, which is outside the
  port's contract: "the model refuses it" (R86, D17, U13). Safe: the model stops where the spec gives no effect. -/
  | keyWaitOutOfContract (key : Byte)
deriving DecidableEq, Repr

/-- The machine right after reset with a program of length 0 (R28, R129): everything zero, the font in memory as
what unlisted addresses read as, `pc` at 0x200 and the run Running. A program is loaded from outside (log entry 6). -/
def State.reset : State where
  v := Vector.replicate 16 0#8
  I := 0#16
  pc := 0x200#16
  sp := 0
  stack := Vector.replicate 16 0#16
  dt := 0#8
  st := 0#8
  mem := []
  fb := Frame.blank
  romlength := 0
  run := .running
  tickCtr := 0
  drawFlag := false
  hist := List.replicate resetConfig.depth Frame.blank
  events := []
  cfg := resetConfig
  ports := ⟨[], [], [], [], 0⟩
  keyWaiting := false

end Sys2Proof.Machine
end

