-- ==== Sys2Proof/Machine/Ops.lean ====
section
/-! DEFINITION. The operations every instruction is written with: memory, framebuffer bytes, registers, the stack,
the ports, the event sequence, and raising a fatal condition. -/

namespace Sys2Proof.Machine

/-! ### What memory holds before anything is written (R19, R28, R36) -/

/-- The default FONT of R19: sixteen glyphs of five bytes (log entry 2). -/
def fontTable : List Byte :=
  [0xF0, 0x90, 0x90, 0x90, 0xF0] ++ [0x20, 0x60, 0x20, 0x20, 0x70] ++
  [0xF0, 0x10, 0xF0, 0x80, 0xF0] ++ [0xF0, 0x10, 0xF0, 0x10, 0xF0] ++
  [0x90, 0x90, 0xF0, 0x10, 0x10] ++ [0xF0, 0x80, 0xF0, 0x10, 0xF0] ++
  [0xF0, 0x80, 0xF0, 0x90, 0xF0] ++ [0xF0, 0x10, 0x20, 0x40, 0x40] ++
  [0xF0, 0x90, 0xF0, 0x90, 0xF0] ++ [0xF0, 0x90, 0xF0, 0x10, 0xF0] ++
  [0xF0, 0x90, 0xF0, 0x90, 0x90] ++ [0xE0, 0x90, 0xE0, 0x90, 0xE0] ++
  [0xF0, 0x80, 0x80, 0x80, 0xF0] ++ [0xE0, 0x90, 0x90, 0x90, 0xE0] ++
  [0xF0, 0x80, 0xF0, 0x80, 0xF0] ++ [0xF0, 0x80, 0xF0, 0x80, 0x80]

/-- The first address of the font (R5, FONT_BASE). -/
abbrev fontBase : Nat := 0x050

/-- What an address nothing has written reads as: the font at 0x050 to 0x09F, zero elsewhere (R28, R36; log
entries 1 and 2). -/
def Memory.initial (a : Nat) : Byte :=
  if fontBase ≤ a then fontTable.getD (a - fontBase) 0#8 else 0#8

/-! ### Memory (R18, R30, R35) -/

/-- The byte at an address. -/
def Memory.read : Memory → Nat → Byte
  | [], a => Memory.initial a
  | (b, w) :: rest, a => if a = b then w else Memory.read rest a

/-- The memory with every entry for an address removed. -/
def Memory.erase : Memory → Nat → Memory
  | [], _ => []
  | (b, w) :: rest, a => if b = a then Memory.erase rest a else (b, w) :: Memory.erase rest a

/-- The memory with an entry put before the first one at a greater address. -/
def Memory.insert : Memory → Nat → Byte → Memory
  | [], a, x => [(a, x)]
  | (b, w) :: rest, a, x => if a < b then (a, x) :: (b, w) :: rest else (b, w) :: Memory.insert rest a x

/-- The memory with one byte written. A value equal to what the unlisted address reads as is not listed, so that
equal memories are equal lists. -/
def Memory.write (m : Memory) (a : Nat) (x : Byte) : Memory :=
  if x = Memory.initial a then m.erase a else (m.erase a).insert a x

/-- The bytes written at rising addresses from `a` (R92, R93, R129). -/
def Memory.writeBytes (m : Memory) (a : Nat) : List Byte → Memory
  | [] => m
  | x :: xs => Memory.writeBytes (m.write a x) (a + 1) xs

/-- Every address of `m` is at least `lo` and below 4096, strictly rising, and no entry is what its address reads as
unlisted. -/
def Memory.wfFrom : Nat → Memory → Bool
  | _, [] => true
  | lo, (a, x) :: rest =>
    decide (lo ≤ a) && decide (a < memSize) && decide (x ≠ Memory.initial a) && Memory.wfFrom (a + 1) rest

/-- The canonical form of memory. -/
def Memory.wf (m : Memory) : Bool := Memory.wfFrom 0 m

/-- The byte at an address of the state's memory. -/
def State.byteAt (s : State) (a : Nat) : Byte := s.mem.read a

/-- The first address above 0xFFF among `count` bytes from `base`, if there is one (R33; log entry 9). -/
def firstOutOfBounds (base count : Nat) : Option Nat :=
  if base + count ≤ memSize ∨ count = 0 then none else some (max base memSize)

/-! ### Framebuffer bytes and pixels (R20) -/

/-- The byte at row `r`, byte-column `c`. -/
def Frame.byte (f : Frame) (r : Fin 32) (c : Fin 8) : Byte := f[r.val][c.val]

/-- The frame with one byte replaced. -/
def Frame.setByte (f : Frame) (r : Fin 32) (c : Fin 8) (x : Byte) : Frame :=
  f.set r.val (f[r.val].set c.val x)

/-- The byte-column a pixel column lies in. -/
def byteColumn (px : Fin 64) : Fin 8 := ⟨px.val / 8, by have := px.isLt; omega⟩

/-- Whether the pixel at column `px`, row `py` is lit: bit `7 - (px mod 8)` of its byte (R20). -/
def Frame.pixel (f : Frame) (px : Fin 64) (py : Fin 32) : Bool :=
  (f.byte py (byteColumn px)).getLsbD (7 - px.val % 8)

/-! ### General registers and the program counter (R10, R13, R14) -/

/-- `V[x]`. -/
def State.reg (s : State) (x : RegIdx) : Byte := s.v[x.toNat]'x.isLt

/-- `V[x] <- a`. -/
def State.setReg (s : State) (x : RegIdx) (a : Byte) : State := { s with v := s.v.set x.toNat a x.isLt }

/-- The flag register VF. -/
abbrev regF : RegIdx := 0xF#4

/-- `pc <- target`. -/
def State.setPc (s : State) (target : Word) : State := { s with pc := target }

/-- `pc <- pc + 2`, modulo 65536 (R14). -/
def State.advance (s : State) : State := s.setPc (s.pc + 2#16)

/-- `pc <- pc + 4` when the condition holds, else `pc + 2` (R14). -/
def State.skipIf (s : State) (taken : Bool) : State := s.setPc (if taken then s.pc + 4#16 else s.pc + 2#16)

/-- `V[0]`, …, `V[k - 1]` loaded from the bytes at rising addresses (R94). -/
def loadRegisters (m : Memory) (base : Nat) : Nat → Vector Byte 16 → Vector Byte 16
  | 0, v => v
  | k + 1, v => (loadRegisters m base k v).setIfInBounds k (m.read (base + k))

/-- `V[0]`, …, `V[x]` as a list (R93). -/
def State.regsUpTo (s : State) (x : RegIdx) : List Byte := s.v.toList.take (x.toNat + 1)

/-! ### Events and fatal conditions (R27, R105 to R108) -/

/-- `emit e`. -/
def State.emit (s : State) (e : Event) : State := { s with events := s.events ++ [e] }

/-- The code of a fatal condition (R105). -/
def Cause.code : Cause → Nat
  | .stackUnderflow => 1
  | .stackOverflow => 2
  | .jumpTargetRange _ => 3
  | .drawFaultX _ => 4
  | .drawFaultY _ => 5
  | .memoryBounds _ => 6
  | .keyRange _ => 7

/-- `raise Fatal(cause)`, this hardware's only exception entry: the diagnostic is emitted with the `pc` and the word
of the instruction, the run is aborted, and nothing else changes (R106, R108). There is no return from it (R109; log entry 5). -/
def raiseFatal (cause : Cause) (word : Option Word) (s : State) : State :=
  { s.emit (.diagFatal cause s.pc word) with run := .aborted cause }

/-- Runs `body` where `count` bytes from `base` lie inside memory, and raises MemoryBounds for the first that does
not; the check of every access comes before any write (R33). -/
def withBounds (base count : Nat) (word : Option Word) (body : State → State) (s : State) : State :=
  match firstOutOfBounds base count with
  | some a => raiseFatal (.memoryBounds a) word s
  | none => body s

/-! ### The stack (R15) -/

/-- Whether a push would be one too many. -/
def State.stackFull (s : State) : Bool := decide (s.cfg.stackLimit.toNat ≤ s.sp)

/-- Stores an address in `stack[sp]`, then counts it. -/
def State.push (s : State) (a : Word) : State :=
  { s with stack := s.stack.setIfInBounds s.sp a, sp := s.sp + 1 }

/-- The address the next pop answers, `stack[sp - 1]`. -/
def State.topOfStack (s : State) : Word := s.stack.toList.getD (s.sp - 1) 0#16

/-- Counts one frame off; the slot keeps its value. -/
def State.pop (s : State) : State := { s with sp := s.sp - 1 }

/-! ### The input ports (R7, R121 to R123, R125)

Each draw answers the port's next listed answer, or a free value where none is listed, and the ports after it. -/

/-- One more free value drawn. -/
def Ports.countFree (p : Ports) : Ports := { p with freeCount := p.freeCount + 1 }

/-- An answer of the random port (R123). -/
def Ports.nextRandom (p : Ports) : Byte × Ports :=
  match p.random with
  | r :: rest => (r, { p with random := rest })
  | [] => (Config.freeByte p.freeCount, p.countFree)

/-- An answer of the key-query port (R121). Nothing relates it to the key or to another answer. -/
def Ports.nextKeyDown (p : Ports) : Bool × Ports :=
  match p.keyDown with
  | d :: rest => (d, { p with keyDown := rest })
  | [] => (Config.freeKeyDown p.freeCount, p.countFree)

/-- A free answer of the key-wait port, inside its contract (R122). -/
def freeKeyWaitAnswer (n : Nat) : KeyWaitAnswer :=
  match Config.freeKeyWait n with
  | none => .pending
  | some (key, quit) => .answered (key.setWidth 8) quit

/-- An answer of the key-wait port, or that the host has not answered yet (R122). -/
def Ports.nextKeyWait (p : Ports) : KeyWaitAnswer × Ports :=
  match p.keyWait with
  | a :: rest => (a, { p with keyWait := rest })
  | [] => (freeKeyWaitAnswer p.freeCount, p.countFree)

/-- An answer of the special-poll port (R125). -/
def Ports.nextPoll (p : Ports) : PollAnswer × Ports :=
  match p.poll with
  | a :: rest => (a, { p with poll := rest })
  | [] => (Config.freePoll p.freeCount, p.countFree)

/-- `draw r <- random_byte()`. -/
def State.drawRandom (s : State) : Byte × State :=
  (s.ports.nextRandom.1, { s with ports := s.ports.nextRandom.2 })

/-- `draw d <- is_key_down(k)`. -/
def State.drawKeyDown (s : State) : Bool × State :=
  (s.ports.nextKeyDown.1, { s with ports := s.ports.nextKeyDown.2 })

/-- `draw (key, quit) <- wait_for_key()`. -/
def State.drawKeyWait (s : State) : KeyWaitAnswer × State :=
  (s.ports.nextKeyWait.1, { s with ports := s.ports.nextKeyWait.2 })

/-- `draw (paused', running') <- poll_special(paused)`. -/
def State.drawPoll (s : State) : PollAnswer × State :=
  (s.ports.nextPoll.1, { s with ports := s.ports.nextPoll.2 })

end Sys2Proof.Machine
end

