-- ==== Sys2Proof/Machine/Flags.lean ====
section
/-! DEFINITION. The flag computations: VF after the flag-writing instructions (spec/10_state.md R11). -/

namespace Sys2Proof.Machine

/-- A flag as the 8-bit value VF takes, 0 or 1 (R11). -/
def flagByte (b : Bool) : Byte := if b then 1#8 else 0#8

/-- Carry out of an 8-bit sum (R69). -/
def carryOut (a b : Byte) : Bool := decide (256 ≤ a.toNat + b.toNat)

/-- The "not borrow" flag of `a - b`: strictly greater, so 0 at equality (R70, R72). -/
def notBorrow (a b : Byte) : Bool := decide (b.toNat < a.toNat)

/-- The bit a right shift drops (R71). -/
def oldBit0 (a : Byte) : Bool := a.getLsbD 0

/-- The bit a left shift drops (R73). -/
def oldBit7 (a : Byte) : Bool := a.getLsbD 7

/-- The value first and the flag last, so that with `x = 0xF` the flag is what VF holds (R74). -/
def State.setResultAndFlag (s : State) (x : RegIdx) (result : Byte) (flag : Bool) : State :=
  (s.setReg x result).setReg regF (flagByte flag)

end Sys2Proof.Machine
end

