-- ==== Sys2Proof/Machine/Operands.lean ====
section
/-! DEFINITION. The operand forms: what an instruction computes from its fields and the registers it reads, before
it writes anything (spec/42_load_and_alu.md R74). -/

namespace Sys2Proof.Machine

/-- `zext_16(nnn)` (R47). -/
def address16 (nnn : Addr12) : Word := nnn.setWidth 16

/-- The range check of `1nnn` and `2nnn`: a 12-bit target can only be too low (R56). -/
def jumpTargetOk (nnn : Addr12) : Bool := decide (progBase ≤ nnn.toNat)

/-- The target of `Bnnn`, unchecked and not reduced to 12 bits (R62). -/
def offsetTarget (nnn : Addr12) (v0 : Byte) : Word := address16 nnn + v0.setWidth 16

/-- The register a shift reads: `V[x]` or `V[y]` by SHIFT_SOURCE (R71, R73). -/
def shiftOperand (s : State) (x y : RegIdx) : Byte :=
  match s.cfg.shiftSource with
  | .x => s.reg x
  | .y => s.reg y

/-- The effective address `I + k`, over the integers (R33, spec/45_timer_index_memory.md section 3). -/
def effectiveAddress (s : State) (k : Nat) : Nat := s.I.toNat + k

/-- `I + V[x]`, modulo 65536 (R90). -/
def indexSum (index : Word) (a : Byte) : Word := index + a.setWidth 16

/-- The address of a glyph, `0x050 + 5 * V[x]`, with no mask (R91). -/
def glyphAddress (a : Byte) : Word := BitVec.ofNat 16 (fontBase + 5 * a.toNat)

/-- The hundreds, tens and ones digits of a byte, each as a byte (R92). -/
def bcdDigits (a : Byte) : List Byte :=
  [BitVec.ofNat 8 (a.toNat / 100), BitVec.ofNat 8 (a.toNat / 10 % 10), BitVec.ofNat 8 (a.toNat % 10)]

/-- Whether a register value names a key, 0 to 15 (R84, R121). -/
def keyOk (k : Byte) : Bool := decide (k.toNat < 16)

end Sys2Proof.Machine
end

