-- ==== Sys2Proof/Machine/Alu.lean ====
section
/-! DEFINITION. Immediate loads, the ALU family, index load and random (spec/42_load_and_alu.md). -/

namespace Sys2Proof.Machine

/-- `6xkk` LD Vx, kk (R63). -/
def execLdImm (x : RegIdx) (kk : Byte) (s : State) : Host.Outcome State Fault Refusal :=
  .next (s.setReg x kk).advance

/-- `7xkk` ADD Vx, kk (R64): no flag. -/
def execAddImm (x : RegIdx) (kk : Byte) (s : State) : Host.Outcome State Fault Refusal :=
  .next (s.setReg x (s.reg x + kk)).advance

/-- `8xy0` LD Vx, Vy (R65). -/
def execLdReg (x y : RegIdx) (s : State) : Host.Outcome State Fault Refusal :=
  .next (s.setReg x (s.reg y)).advance

/-- `8xy1` OR (R66): no flag. -/
def execOrReg (x y : RegIdx) (s : State) : Host.Outcome State Fault Refusal :=
  .next (s.setReg x (s.reg x ||| s.reg y)).advance

/-- `8xy2` AND (R67): no flag. -/
def execAndReg (x y : RegIdx) (s : State) : Host.Outcome State Fault Refusal :=
  .next (s.setReg x (s.reg x &&& s.reg y)).advance

/-- `8xy3` XOR (R68): no flag. -/
def execXorReg (x y : RegIdx) (s : State) : Host.Outcome State Fault Refusal :=
  .next (s.setReg x (s.reg x ^^^ s.reg y)).advance

/-- `8xy4` ADD (R69): VF is the carry out. -/
def execAddReg (x y : RegIdx) (s : State) : Host.Outcome State Fault Refusal :=
  .next (s.setResultAndFlag x (s.reg x + s.reg y) (carryOut (s.reg x) (s.reg y))).advance

/-- `8xy5` SUB (R70): VF is 1 exactly when `Vx > Vy`. -/
def execSubReg (x y : RegIdx) (s : State) : Host.Outcome State Fault Refusal :=
  .next (s.setResultAndFlag x (s.reg x - s.reg y) (notBorrow (s.reg x) (s.reg y))).advance

/-- `8xy6` SHR (R71): the source register is SHIFT_SOURCE's; VF is its old bit 0. -/
def execShr (x y : RegIdx) (s : State) : Host.Outcome State Fault Refusal :=
  .next (s.setResultAndFlag x (shiftOperand s x y >>> 1) (oldBit0 (shiftOperand s x y))).advance

/-- `8xy7` SUBN (R72): VF is 1 exactly when `Vy > Vx`. -/
def execSubn (x y : RegIdx) (s : State) : Host.Outcome State Fault Refusal :=
  .next (s.setResultAndFlag x (s.reg y - s.reg x) (notBorrow (s.reg y) (s.reg x))).advance

/-- `8xyE` SHL (R73): the source register is SHIFT_SOURCE's; VF is its old bit 7. -/
def execShl (x y : RegIdx) (s : State) : Host.Outcome State Fault Refusal :=
  .next (s.setResultAndFlag x (shiftOperand s x y <<< 1) (oldBit7 (shiftOperand s x y))).advance

/-- `Annn` LD I, nnn (R75). -/
def execLdI (nnn : Addr12) (s : State) : Host.Outcome State Fault Refusal :=
  .next { s with I := address16 nnn }.advance

/-- `Cxkk` RND (R76): the drawn byte under the mask. -/
def execRnd (x : RegIdx) (kk : Byte) (s : State) : Host.Outcome State Fault Refusal :=
  .next (s.drawRandom.2.setReg x (s.drawRandom.1 &&& kk)).advance

end Sys2Proof.Machine
end

