-- ==== Sys2Proof/Machine/Draw.lean ====
section
/-! DEFINITION. The sprite draw (spec/43_sprite_draw.md). -/

namespace Sys2Proof.Machine

/-! ### Part 1: the origin (R79) -/

/-- What the origin policy decides. -/
inductive DrawOutcome where
  | draw (cx : Fin 64) (cy : Fin 32)
  | suppressed
  | faultX
  | faultY
deriving DecidableEq, Repr

/-- The origin policy of R79: a fault on either axis before a suppression on the other, X before Y. -/
def originPolicy (xwrap ywrap : WrapPolicy) (x0 y0 : Byte) : DrawOutcome :=
  let xout := decide (64 ≤ x0.toNat)
  let yout := decide (32 ≤ y0.toNat)
  if xout && xwrap == .fault then .faultX
  else if yout && ywrap == .fault then .faultY
  else if (xout && xwrap == .clip) || (yout && ywrap == .clip) then .suppressed
  else .draw ⟨x0.toNat % 64, Nat.mod_lt _ (by decide)⟩ ⟨y0.toNat % 32, Nat.mod_lt _ (by decide)⟩

/-! ### Part 2: how many rows are drawn, and so read (R78, R80) -/

/-- The rows a draw at row `cy` reads and draws. -/
def rowsDrawn (ywrap : WrapPolicy) (cy : Fin 32) (n : BitVec 4) : Nat :=
  if ywrap == .wrap then n.toNat else min n.toNat (32 - cy.val)

/-! ### Part 3: the rows (R81, R82) -/

/-- The framebuffer under a draw and the collision seen so far. -/
structure Canvas where
  fb : Frame
  collision : Bool
deriving DecidableEq, Repr

/-- `xor_byte` of R81: the collision test is made before the XOR, and is sticky. -/
def Canvas.xorByte (k : Canvas) (r : Fin 32) (c : Fin 8) (m : Byte) : Canvas :=
  { fb := k.fb.setByte r c (k.fb.byte r c ^^^ m)
    collision := k.collision || k.fb.byte r c &&& m != 0#8 }

/-- The byte-column after `c`, back to 0 past the last one where X-wrap is enabled (R81). -/
def nextColumn (xwrap : WrapPolicy) (c : Fin 8) : Option (Fin 8) :=
  if h : c.val + 1 < 8 then some ⟨c.val + 1, h⟩
  else if xwrap == .wrap then some 0
  else none

/-- `xor_row` of R81: the primary part, and the remainder where the column is not a multiple of 8. -/
def Canvas.xorRow (xwrap : WrapPolicy) (k : Canvas) (cy : Fin 32) (cx : Fin 64) (b : Byte) : Canvas :=
  let s := cx.val % 8
  let k := k.xorByte cy (byteColumn cx) (b >>> s)
  if s = 0 then k
  else
    match nextColumn xwrap (byteColumn cx) with
    | some c => k.xorByte cy c (b <<< (8 - s))
    | none => k

/-- `next_row` of R82: none where the row loop stops. -/
def nextRow (ywrap : WrapPolicy) (cy : Fin 32) : Option (Fin 32) :=
  if h : cy.val + 1 < 32 then some ⟨cy.val + 1, h⟩
  else if ywrap == .wrap then some 0
  else none

/-- The row loop of R78: `rows` rows from row `cy`, their bytes at rising addresses from `base`. -/
def drawRows (xwrap ywrap : WrapPolicy) (m : Memory) (cx : Fin 64) : Nat → Nat → Fin 32 → Canvas → Canvas
  | 0, _, _, k => k
  | rows + 1, base, cy, k =>
    let k := k.xorRow xwrap cy cx (m.read base)
    match nextRow ywrap cy with
    | some cy' => drawRows xwrap ywrap m cx rows (base + 1) cy' k
    | none => k

/-- The state after `rows` rows are drawn: the framebuffer, VF, the draw signal and the `pc` (R78). -/
def State.drawSprite (s : State) (cx : Fin 64) (cy : Fin 32) (rows : Nat) : State :=
  let k := drawRows s.cfg.xwrap s.cfg.ywrap s.mem cx rows s.I.toNat cy ⟨s.fb, false⟩
  ({ s with fb := k.fb, drawFlag := true }.setReg regF (flagByte k.collision)).advance

/-- The state after a suppressed draw: no pixel touched, VF 0 (R78, R79). -/
def State.suppressDraw (s : State) : State :=
  ({ s with drawFlag := s.drawFlag || s.cfg.drawFlagOnSuppressed }.setReg regF (flagByte false)).advance

/-- `Dxyn` DRW (R78): the origin is read before VF is cleared (R74, R79), and every check comes before any write. -/
def execDrw (x y n : BitVec 4) (s : State) : Host.Outcome State Fault Refusal :=
  .next (match originPolicy s.cfg.xwrap s.cfg.ywrap (s.reg x) (s.reg y) with
    | .faultX => raiseFatal (.drawFaultX (s.reg x)) (some (encode (.drw x y n))) s
    | .faultY => raiseFatal (.drawFaultY (s.reg y)) (some (encode (.drw x y n))) s
    | .suppressed => s.suppressDraw
    | .draw cx cy =>
      withBounds (effectiveAddress s 0) (rowsDrawn s.cfg.ywrap cy n) (some (encode (.drw x y n)))
        (fun t => t.drawSprite cx cy (rowsDrawn s.cfg.ywrap cy n)) s)

end Sys2Proof.Machine
end

