-- ==== Sys2Proof/Machine/Flow.lean ====
section
/-! DEFINITION. Jumps, call and conditional skips (spec/41_flow_and_skip.md). -/

namespace Sys2Proof.Machine

/-- `1nnn` JP (R56). -/
def execJp (nnn : Addr12) (s : State) : Host.Outcome State Fault Refusal :=
  .next (if jumpTargetOk nnn then s.setPc (address16 nnn)
    else raiseFatal (.jumpTargetRange nnn) (some (encode (.jp nnn))) s)

/-- `2nnn` CALL (R57): pushes its own address; a full stack is reported before a target out of range (R110). -/
def execCall (nnn : Addr12) (s : State) : Host.Outcome State Fault Refusal :=
  .next (if s.stackFull then raiseFatal .stackOverflow (some (encode (.call nnn))) s
    else if jumpTargetOk nnn then (s.push s.pc).setPc (address16 nnn)
    else raiseFatal (.jumpTargetRange nnn) (some (encode (.call nnn))) s)

/-- `Bnnn` JP V0 (R62). -/
def execJpV0 (nnn : Addr12) (s : State) : Host.Outcome State Fault Refusal :=
  .next (s.setPc (offsetTarget nnn (s.reg 0#4)))

/-- `3xkk` SE Vx, kk (R58). -/
def execSeImm (x : RegIdx) (kk : Byte) (s : State) : Host.Outcome State Fault Refusal :=
  .next (s.skipIf (s.reg x == kk))

/-- `4xkk` SNE Vx, kk (R59). -/
def execSneImm (x : RegIdx) (kk : Byte) (s : State) : Host.Outcome State Fault Refusal :=
  .next (s.skipIf (s.reg x != kk))

/-- `5xy0` SE Vx, Vy (R60). -/
def execSeReg (x y : RegIdx) (s : State) : Host.Outcome State Fault Refusal :=
  .next (s.skipIf (s.reg x == s.reg y))

/-- `9xy0` SNE Vx, Vy (R61). -/
def execSneReg (x y : RegIdx) (s : State) : Host.Outcome State Fault Refusal :=
  .next (s.skipIf (s.reg x != s.reg y))

end Sys2Proof.Machine
end

