-- ==== Sys2Proof/Machine/Keyboard.lean ====
section
/-! DEFINITION. The keyboard instructions (spec/44_keyboard.md). -/

namespace Sys2Proof.Machine

/-- `Ex9E` SKP (R84): a value of 16 or more is no key; otherwise the key-query port is asked once. -/
def execSkp (x : RegIdx) (s : State) : Host.Outcome State Fault Refusal :=
  .next (if keyOk (s.reg x) then s.drawKeyDown.2.skipIf s.drawKeyDown.1
    else raiseFatal (.keyRange (s.reg x)) (some (encode (.skp x))) s)

/-- `ExA1` SKNP (R85). -/
def execSknp (x : RegIdx) (s : State) : Host.Outcome State Fault Refusal :=
  .next (if keyOk (s.reg x) then s.drawKeyDown.2.skipIf (!s.drawKeyDown.1)
    else raiseFatal (.keyRange (s.reg x)) (some (encode (.sknp x))) s)

/-- The key by which the host's next listed answer to the wait breaks the port's contract: 16 or more without a quit
(R86, D17). A free answer breaks no contract. -/
def State.keyWaitBreach (s : State) : Option Byte :=
  match s.ports.keyWait with
  | .answered key false :: _ => if keyOk key then none else some key
  | _ => none

/-- What the host's answer to the wait does (R86): nothing while there is none, the run ends on a quit with `pc` and
every register unchanged, and a key goes to `V[x]`. -/
def State.finishKeyWait (s : State) (x : RegIdx) : KeyWaitAnswer → State
  | .pending => { s with keyWaiting := true }
  | .answered key quit =>
    if quit then { s with run := .halted, keyWaiting := false }
    else ({ s with keyWaiting := false }.setReg x key).advance

/-- `Fx0A` LD Vx, K (R86): one call of the key-wait port (log entries 8 and 18). -/
def execLdVxK (x : RegIdx) (s : State) : Host.Outcome State Fault Refusal :=
  match s.keyWaitBreach with
  | some key => .refused (.keyWaitOutOfContract key)
  | none => .next (s.drawKeyWait.2.finishKeyWait x s.drawKeyWait.1)

end Sys2Proof.Machine
end

