-- ==== Sys2Proof/Machine/System.lean ====
section
/-! DEFINITION. Family 0: clear, return, system call (spec/40_family0_system.md). -/

namespace Sys2Proof.Machine

/-- `00E0` CLS (R53): every pixel unlit; VF, the history ring and everything else kept. -/
def execCls (s : State) : Host.Outcome State Fault Refusal :=
  .next { s with fb := Frame.blank, drawFlag := s.drawFlag || s.cfg.drawFlagOnCls }.advance

/-- `00EE` RET (R54): the popped address is the CALL's own, so 2 is added; the sum is not range-checked. -/
def execRet (s : State) : Host.Outcome State Fault Refusal :=
  .next (if s.sp = 0 then raiseFatal .stackUnderflow (some (encode .ret)) s
    else s.pop.setPc (s.topOfStack + 2#16))

/-- `0nnn` SYS (R55): no operation, no diagnostic. -/
def execSys (_nnn : Addr12) (s : State) : Host.Outcome State Fault Refusal :=
  .next s.advance

end Sys2Proof.Machine
end

