-- ==== Sys2Proof/Machine/TimerIndexMemory.lean ====
section
/-! DEFINITION. Timer moves, index arithmetic, BCD, register block store and load
(spec/45_timer_index_memory.md). -/

namespace Sys2Proof.Machine

/-- `Fx07` LD Vx, DT (R87). -/
def execLdVxDt (x : RegIdx) (s : State) : Host.Outcome State Fault Refusal :=
  .next (s.setReg x s.dt).advance

/-- `Fx15` LD DT, Vx (R88): the timer counter is not reset. -/
def execLdDtVx (x : RegIdx) (s : State) : Host.Outcome State Fault Refusal :=
  .next { s with dt := s.reg x }.advance

/-- `Fx18` LD ST, Vx (R89): no Bell from the instruction. -/
def execLdStVx (x : RegIdx) (s : State) : Host.Outcome State Fault Refusal :=
  .next { s with st := s.reg x }.advance

/-- `Fx1E` ADD I, Vx (R90): no flag, no reduction to 12 bits. -/
def execAddI (x : RegIdx) (s : State) : Host.Outcome State Fault Refusal :=
  .next { s with I := indexSum s.I (s.reg x) }.advance

/-- `Fx29` LD F, Vx (R91). -/
def execLdF (x : RegIdx) (s : State) : Host.Outcome State Fault Refusal :=
  .next { s with I := glyphAddress (s.reg x) }.advance

/-- Stores bytes at rising addresses from `I`, then moves on. -/
def State.storeAtIndex (s : State) (bytes : List Byte) : State :=
  { s with mem := s.mem.writeBytes (effectiveAddress s 0) bytes }.advance

/-- `Fx33` LD B, Vx (R92). -/
def execLdB (x : RegIdx) (s : State) : Host.Outcome State Fault Refusal :=
  .next (withBounds (effectiveAddress s 0) 3 (some (encode (.ldB x)))
    (fun t => t.storeAtIndex (bcdDigits (t.reg x))) s)

/-- `Fx55` LD [I], Vx (R93): V0 to Vx inclusive, `I` unchanged. -/
def execStoreRegs (x : RegIdx) (s : State) : Host.Outcome State Fault Refusal :=
  .next (withBounds (effectiveAddress s 0) (x.toNat + 1) (some (encode (.storeRegs x)))
    (fun t => t.storeAtIndex (t.regsUpTo x)) s)

/-- `Fx65` LD Vx, [I] (R94): V0 to Vx inclusive, `I` unchanged. -/
def execLoadRegs (x : RegIdx) (s : State) : Host.Outcome State Fault Refusal :=
  .next (withBounds (effectiveAddress s 0) (x.toNat + 1) (some (encode (.loadRegs x)))
    (fun t => { t with v := loadRegisters t.mem (effectiveAddress t 0) (x.toNat + 1) t.v }.advance) s)

end Sys2Proof.Machine
end

