-- ==== Sys2Proof/Machine/Compositor.lean ====
section
/-! DEFINITION. The frame compositor (spec/48_frame_compositor.md). -/

namespace Sys2Proof.Machine

/-- The bitwise OR of two frames, byte by byte. -/
def Frame.or (f g : Frame) : Frame := Vector.ofFn fun r => Vector.ofFn fun c => f.byte r c ||| g.byte r c

/-- The presentable bitmap: the current frame OR every frame of the ring (R99). -/
def blend (current : Frame) (history : List Frame) : Frame := history.foldl Frame.or current

/-- The ring with the raw frame inserted at position 0 and the oldest entry gone (R100). -/
def advanceRing (depth : Nat) (current : Frame) (history : List Frame) : List Frame :=
  (current :: history).take depth

/-- `compose()`: the blend with the ring as it stands, the ring's advance, the presentation (R98 to R101). -/
def State.compose (s : State) : State :=
  { s.emit (.present (blend s.fb s.hist)) with hist := advanceRing s.cfg.depth s.fb s.hist }

/-- The calls of the display port (R124). -/
inductive DisplayCall where
  | clear
  | setPixel (px : Fin 64) (py : Fin 32)
  | present
deriving DecidableEq, Repr

/-- The lit pixels of one row, left to right. -/
def litPixels (out : Frame) (py : Fin 32) : List DisplayCall :=
  ((List.finRange 64).filter fun px => out.pixel px py).map fun px => .setPixel px py

/-- The call sequence a `Present` event stands for: clear, every lit pixel in row-major order, present (R101). -/
def displayCalls (out : Frame) : List DisplayCall :=
  [.clear] ++ (List.finRange 32).flatMap (litPixels out) ++ [.present]

end Sys2Proof.Machine
end

