-- ==== Sys2Proof/Machine/Unrecognised.lean ====
section
/-! DEFINITION. Unrecognised instruction words (spec/46_unrecognised.md). -/

namespace Sys2Proof.Machine

/-- A word that matches no row of the opcode map: one diagnostic, and the run goes on (R95; log entry 7). -/
def execUnrecognised (w : Word) (s : State) : State := (s.emit (.diagUnrecognised w)).advance

end Sys2Proof.Machine
end

