-- ==== Sys2Proof/Machine/RunLoop.lean ====
section
/-! DEFINITION. The run loop's part of a tick: everything of R115 but the instruction itself
(spec/60_exceptions.md, spec/70_reset_and_hazards.md). -/

namespace Sys2Proof.Machine

/-- The end-of-run test: `pc >= 0x200 + romlength` (R132). -/
def State.pastProgram (s : State) : Bool := decide (progBase + s.romlength ≤ s.pc.toNat)

/-- The normal end of a run. -/
def State.halt (s : State) : State := { s with run := .halted }

/-- Step 2 of a tick: the draw signal is cleared (R25, R115), and no key-wait call is outstanding until the
instruction makes one. -/
def State.beginTick (s : State) : State := { s with drawFlag := false, keyWaiting := false }

/-- What instruction fetch finds at the `pc` (R31, R33). -/
inductive Fetch where
  | word (w : Word)
  | outOfBounds (addr : Nat)
deriving DecidableEq, Repr

/-- The two bytes at the `pc` as a big-endian word, or the address out of bounds (R31, R33). -/
def State.fetch (s : State) : Fetch :=
  match firstOutOfBounds s.pc.toNat 2 with
  | some a => .outOfBounds a
  | none => .word (wordOfBytes (s.byteAt s.pc.toNat) (s.byteAt (s.pc.toNat + 1)))

/-- A fetch out of bounds: MemoryBounds with the `pc` alone, before the word is known (R106, R110). -/
def fetchFault (addr : Nat) (s : State) : State := raiseFatal (.memoryBounds addr) none s

/-- The run state a poll leaves: a quit wins over a pause (R110, R112, R113). -/
def pollRunState (a : PollAnswer) : RunState :=
  if a.running then (if a.paused then .paused else .running) else .halted

/-- Step 4 of a tick: the host is polled once (R115, R125). -/
def State.pollHost (s : State) : State := { s.drawPoll.2 with run := pollRunState s.drawPoll.1 }

/-- The delay timer after a timer event: never below zero (R16, R117). -/
def timerDown (t : Byte) : Byte := if t = 0#8 then 0#8 else t - 1#8

/-- One timer event: both timers down, and one Bell if the sound timer was not 0 (R117, R118). -/
def State.timerEvent (s : State) : State :=
  let t := { s with dt := timerDown s.dt, st := timerDown s.st }
  if s.st = 0#8 then t else t.emit .bell

/-- Step 6 of a tick: the timer counter, and a timer event when it wraps (R24, R115). -/
def State.countTick (s : State) : State :=
  if s.tickCtr + 1 = s.cfg.timerRatio then { s with tickCtr := 0 }.timerEvent
  else { s with tickCtr := s.tickCtr + 1 }

/-- Step 5 of a tick: the compositor runs while not paused, if a draw was signalled in this tick (R103, R115). -/
def State.presentIfDrawn (s : State) : State :=
  if s.run = .running ∧ s.drawFlag = true then s.compose else s

/-- Step 6 of a tick happens only while Running (R113, R115). -/
def State.countIfRunning (s : State) : State := if s.run = .running then s.countTick else s

/-- Steps 4 to 6 of a tick: poll, present, count (R115). -/
def State.finishTick (s : State) : State := s.pollHost.presentIfDrawn.countIfRunning

/-- `s` with the fields steps 4 to 6 of a tick write taken from `t`: the other fields of a tick's result can then be
read whatever the host answers. -/
def State.withRunLoopOf (s t : State) : State :=
  { s with
    run := t.run, ports := t.ports, hist := t.hist, events := t.events
    tickCtr := t.tickCtr, dt := t.dt, st := t.st }

/-- What follows the instruction in a tick: nothing where the instruction ended the run or is still waiting for a
key (R115 step 3, R119), otherwise steps 4 to 6. -/
def State.endTick (s : State) : State :=
  s.withRunLoopOf (if s.run = .running ∧ s.keyWaiting = false then s.finishTick else s)

end Sys2Proof.Machine
end

