-- ==== Sys2Proof/Machine/Step.lean ====
section
/-! DEFINITION. One step of the machine: one tick of the run loop (spec/60_exceptions.md R115). -/

namespace Sys2Proof.Machine

/-- Decodes a fetched word and executes it (R44, R115): a word that is no instruction is reported and skipped (R95). -/
def execWord (w : Word) (s : State) : Host.Outcome State Fault Refusal :=
  match decodeWord w with
  | some i => exec i s
  | none => .next (execUnrecognised w s)

/-- The `step()` of R115: fetch, decode and execute one instruction. -/
def State.interpret (s : State) : Host.Outcome State Fault Refusal :=
  match s.fetch with
  | .outOfBounds addr => .next (fetchFault addr s)
  | .word w => execWord w s

/-- Continues from a next state. -/
def andThen (o : Host.Outcome State Fault Refusal) (k : State → State) : Host.Outcome State Fault Refusal :=
  match o with
  | .next s => .next (k s)
  | .fault r => .fault r
  | .refused r => .refused r

/-- One tick of the run loop (R115; log entry 13). A terminal run state has no tick (R114). -/
def step (s : State) : Host.Outcome State Fault Refusal :=
  match s.run with
  | .halted => .fault .halted
  | .aborted cause => .fault (.aborted cause)
  | .paused => if s.pastProgram then .next s.halt else .next s.beginTick.finishTick
  | .running => if s.pastProgram then .next s.halt else andThen s.beginTick.interpret State.endTick

/-- The address a table word is stored at: the `pc`, or 0x200 where the `pc` has not two bytes of memory to fetch. -/
def State.fetchAddress (s : State) : Word := if s.pc.toNat + 2 ≤ memSize then s.pc else 0x200#16

/-- The state whose very next step runs the table word: its bytes at the fetch address, the run Running, and the
loaded program long enough to reach past it, as a load from outside the machine would leave them (log entry 6). -/
def State.withFetchWord (s : State) (nbits w : Nat) : State :=
  { s with
    pc := s.fetchAddress
    mem := s.mem.writeBytes s.fetchAddress.toNat (wordBytes (tableWord nbits w))
    romlength := max s.romlength (s.fetchAddress.toNat + 2 - progBase)
    run := .running }

end Sys2Proof.Machine
end

