-- ==== Sys2Proof/Machine/Load.lean ====
section
/-! DEFINITION. Construction of a machine: reset, font initialisation and load (spec/70_reset_and_hazards.md
R128, R129). -/

namespace Sys2Proof.Machine

/-- Why no run exists (R129). -/
inductive LoadError where
  /-- The rom is longer than 3584 bytes: the load is refused (R129, D33). -/
  | romTooLong (length : Nat)
deriving DecidableEq, Repr

/-- The machine of a configuration, a FONT and a rom (R128): zero everywhere, the font at 0x050, the rom at 0x200, its
length recorded, `pc` at 0x200, Running. A rom that does not fit is refused. -/
def construct (cfg : Config) (font : Vector Byte 80) (rom : List Byte) : Except LoadError State :=
  if rom.length ≤ maxRom then
    .ok { State.reset with
      cfg := cfg
      hist := List.replicate cfg.depth Frame.blank
      mem := (Memory.writeBytes [] fontBase font.toList).writeBytes progBase rom
      romlength := rom.length }
  else .error (.romTooLong rom.length)

end Sys2Proof.Machine
end

