-- ==== Sys2Proof/Safety.lean ====
section
/-! DEFINITION. What claims are stated in: safe states, the invariants of a run, what an instruction leaves
unchanged, and the fatal conditions as the spec tabulates them. -/

namespace Sys2Proof.Machine

/-! ### Safe states -/

/-- A state no fatal condition has aborted: an aborted run is never a good end (R108, R132). -/
def State.Safe (s : State) : Prop := ∀ cause, s.run ≠ .aborted cause

/-! ### Invariants -/

/-- The ranges the spec gives the state: memory in its canonical form, `sp` at most STACK_LIMIT (R15), `romlength` at
most 3584 (R21), a configuration inside R6, `tick_ctr` below TIMER_RATIO (R24), a ring of DEPTH frames (R26). -/
structure State.Inv (s : State) : Prop where
  mem_wf : s.mem.wf = true
  sp_le : s.sp ≤ s.cfg.stackLimit.toNat
  romlength_le : s.romlength ≤ 3584
  cfg_legal : s.cfg.Legal
  tickCtr_lt : s.tickCtr < s.cfg.timerRatio
  hist_length : s.hist.length = s.cfg.depth

/-- The bound on the program counter and on the return addresses that keeps `pc + 2` and `pc + 4` from wrapping
(R14): `Bnnn` gives `pc` at most 0x10FE, and a call is executed inside memory. -/
structure State.PcInv (s : State) : Prop where
  pc_le : s.pc.toNat ≤ 0x10FE
  stack_lt : ∀ k : Fin 16, s.stack[k.val].toNat < 0x1000

/-! ### What stays unchanged -/

/-- The parts of the state other than the general registers and the program counter. -/
inductive Part where
  | index
  | memory
  | sp
  | stack
  | delayTimer
  | soundTimer
  | framebuffer
  | drawSignal
  | runState
  | events
  | ports
  | keyWaiting
  | romlength
  | tickCounter
  | history
  | configuration
deriving DecidableEq, Repr

/-- A part reads in `t` as it does in `s`; memory is compared byte by byte. -/
def Part.Same (s t : State) : Part → Prop
  | .index => t.I = s.I
  | .memory => ∀ a, t.byteAt a = s.byteAt a
  | .sp => t.sp = s.sp
  | .stack => t.stack = s.stack
  | .delayTimer => t.dt = s.dt
  | .soundTimer => t.st = s.st
  | .framebuffer => t.fb = s.fb
  | .drawSignal => t.drawFlag = s.drawFlag
  | .runState => t.run = s.run
  | .events => t.events = s.events
  | .ports => t.ports = s.ports
  | .keyWaiting => t.keyWaiting = s.keyWaiting
  | .romlength => t.romlength = s.romlength
  | .tickCounter => t.tickCtr = s.tickCtr
  | .history => t.hist = s.hist
  | .configuration => t.cfg = s.cfg

/-- From `s` to `t` only the registers in `xs` and the parts in `ps` may change, and the program counter. -/
def OnlyChanges (xs : List RegIdx) (ps : List Part) (s t : State) : Prop :=
  (∀ r, r ∉ xs → t.reg r = s.reg r) ∧ (∀ p, p ∉ ps → p.Same s t)

/-! ### Fatal conditions as R105 tabulates them -/

/-- The fatal condition an instruction meets in a state, in the order of R110, or none: a table of R105's "exactly
when" column, written apart from the meanings. -/
def fatalCondition (i : Instr) (s : State) : Option Cause :=
  match i with
  | .ret => if s.sp = 0 then some .stackUnderflow else none
  | .jp nnn => if nnn.toNat < 0x200 then some (.jumpTargetRange nnn) else none
  | .call nnn =>
    if s.sp = s.cfg.stackLimit.toNat then some .stackOverflow
    else if nnn.toNat < 0x200 then some (.jumpTargetRange nnn) else none
  | .drw x y n =>
    if 64 ≤ (s.reg x).toNat ∧ s.cfg.xwrap = .fault then some (.drawFaultX (s.reg x))
    else if 32 ≤ (s.reg y).toNat ∧ s.cfg.ywrap = .fault then some (.drawFaultY (s.reg y))
    else if (64 ≤ (s.reg x).toNat ∧ s.cfg.xwrap = .clip) ∨ (32 ≤ (s.reg y).toNat ∧ s.cfg.ywrap = .clip) then none
    else boundsCondition (if s.cfg.ywrap = .wrap then n.toNat else min n.toNat (32 - (s.reg y).toNat % 32)) s
  | .ldB _ => boundsCondition 3 s
  | .storeRegs x | .loadRegs x => boundsCondition (x.toNat + 1) s
  | .skp x | .sknp x => if 16 ≤ (s.reg x).toNat then some (.keyRange (s.reg x)) else none
  | .cls | .sys _ | .seImm _ _ | .sneImm _ _ | .seReg _ _ | .ldImm _ _ | .addImm _ _ | .ldReg _ _ | .orReg _ _
  | .andReg _ _ | .xorReg _ _ | .addReg _ _ | .subReg _ _ | .shr _ _ | .subn _ _ | .shl _ _ | .sneReg _ _ | .ldI _
  | .jpV0 _ | .rnd _ _ | .ldVxDt _ | .ldVxK _ | .ldDtVx _ | .ldStVx _ | .addI _ | .ldF _ => none
where
  /-- MemoryBounds for the first address above 0xFFF among `count` bytes from `I`. -/
  boundsCondition (count : Nat) (s : State) : Option Cause :=
    if 0 < count ∧ 0xFFF < s.I.toNat + count - 1 then some (.memoryBounds (max s.I.toNat 0x1000)) else none

/-! ### The registers an instruction may write (R10, R11) -/

/-- The destination registers of an instruction: its `x` where it writes `V[x]`, V0 to Vx for the block load, and VF
for the instructions R11 lists as flag writers. -/
def destinations : Instr → List RegIdx
  | .ldImm x _ | .addImm x _ | .ldReg x _ | .orReg x _ | .andReg x _ | .xorReg x _ | .rnd x _ | .ldVxDt x
  | .ldVxK x => [x]
  | .addReg x _ | .subReg x _ | .shr x _ | .subn x _ | .shl x _ => [x, regF]
  | .drw _ _ _ => [regF]
  | .loadRegs x => (List.range (x.toNat + 1)).map (BitVec.ofNat 4)
  | .cls | .ret | .sys _ | .jp _ | .call _ | .seImm _ _ | .sneImm _ _ | .seReg _ _ | .sneReg _ _ | .ldI _ | .jpV0 _
  | .skp _ | .sknp _ | .ldDtVx _ | .ldStVx _ | .addI _ | .ldF _ | .ldB _ | .storeRegs _ => []

/-! ### The draw pixel by pixel (R83) -/

/-- Where a sprite coordinate lands on an axis of `size` pixels: itself on the screen, wrapped past the edge where the
axis wraps, nowhere otherwise (R83). -/
def pixelTarget (policy : WrapPolicy) (size at_ : Nat) : Option Nat :=
  if at_ < size then some at_ else if policy = .wrap then some (at_ - size) else none

/-- Whether a set sprite pixel of an `n`-row sprite drawn at column `cx`, row `cy` has the screen pixel `(px, py)` as
its target: sprite pixel `(j, r)` is set when bit `7 - j` of `mem[I + r]` is 1 (R83). -/
def SpriteHits (s : State) (cx cy n px py : Nat) : Prop :=
  ∃ j r, j < 8 ∧ r < n ∧ (s.byteAt (s.I.toNat + r)).getLsbD (7 - j) = true ∧
    pixelTarget s.cfg.xwrap 64 (cx + j) = some px ∧ pixelTarget s.cfg.ywrap 32 (cy + r) = some py

/-- Whether the origin of a draw is suppressed by a clipping axis (R79). -/
def DrawClipped (s : State) (x0 y0 : Byte) : Prop :=
  (64 ≤ x0.toNat ∧ s.cfg.xwrap = .clip) ∨ (32 ≤ y0.toNat ∧ s.cfg.ywrap = .clip)

/-! ### The machine without its compositor (R102) -/

/-- Whether an event is one the compositor emits. -/
def Event.isPresent : Event → Bool
  | .present _ => true
  | .bell | .diagUnrecognised _ | .diagFatal _ _ _ => false

/-- The state with all that belongs to the compositor left out: the history ring and the `Present` events. -/
def State.withoutCompositor (s : State) : State :=
  { s with hist := [], events := s.events.filter fun e => !e.isPresent }

/-- An outcome with the compositor's part of its state left out. -/
def outcomeWithoutCompositor : Host.Outcome State Fault Refusal → Host.Outcome State Fault Refusal
  | .next s => .next s.withoutCompositor
  | .fault r => .fault r
  | .refused r => .refused r

/-- Steps 4 to 6 of a tick with step 5, the compositor, removed. -/
def State.finishTickNoCompose (s : State) : State := s.pollHost.countIfRunning

/-- What follows the instruction in a tick with the compositor removed. -/
def State.endTickNoCompose (s : State) : State :=
  if s.run = .running ∧ s.keyWaiting = false then s.finishTickNoCompose else s

/-- One tick of R115 with the compositor removed: nothing is composed, no ring is read or advanced. -/
def stepNoCompose (s : State) : Host.Outcome State Fault Refusal :=
  match s.run with
  | .halted => .fault .halted
  | .aborted cause => .fault (.aborted cause)
  | .paused => if s.pastProgram then .next s.halt else .next s.beginTick.finishTickNoCompose
  | .running => if s.pastProgram then .next s.halt else andThen s.beginTick.interpret State.endTickNoCompose

/-- The machine with the whole compositor removed (R102). -/
def coreWithoutCompositor : Host.Core :=
  { State := State, Fault := Fault, Refusal := Refusal, step := stepNoCompose, reset := State.reset }

end Sys2Proof.Machine
end

