-- ==== Sys2Proof/Certificates/Slice0/Obligations.lean ====
section
/-! DEFINITION. The statements for the provers. A sum `pc + 2` or `pc + 4` is one of 16 bits (R77); that it wraps is the
spec's decision D35, and no run reaches the wrap (`Obligations.StepKeepsProgramCounterBound`). -/

open Sys2Proof Sys2Proof.Machine

/-! ### Encoding -/

/-- Decoding the bytes of a well-formed instruction gives it back, whatever bytes follow. From R43, R44, R46, R31. -/
def Obligations.DecodeOfEncodeIsIdentity : Prop :=
  ∀ (i : Instr) (rest : List Byte), i.wellFormed = true → decode (encodeBytes i ++ rest) = .ok (i, rest)

/-- Each recognised word stands for one well-formed instruction, whose word it is. That no bit is lost in families 5
and 9 rests on their low nibble being tested, the spec's decision D7 (log entry 7). From R43, R44, R52. -/
def Obligations.EncodeOfDecodeIsIdentity : Prop :=
  ∀ (w : Word) (i : Instr), decodeWord w = some i → i.wellFormed = true ∧ encode i = w

/-- The two-stage decoder selects the row that the opcode map of R48, tried top to bottom, selects first; a word that
selects no row is no instruction. The rows of families 5 and 9 rest on the spec's decision D7. From R44, R48. -/
def Obligations.DecodeTakesFirstMatchingRow : Prop :=
  ∀ w : Word, (decodeWord w).map opcodeRow = opcodeTable.find? fun r => r.selects w

/-- The unrecognised words are exactly those R49 lists. That families 5 and 9 test the low nibble is the spec's
decision D7. From R49, R96. -/
def Obligations.UnrecognisedWordsAreTheListed : Prop :=
  ∀ w : Word, decodeWord w = none ↔
    ((fieldFamily w = 0x5#4 ∨ fieldFamily w = 0x9#4) ∧ fieldN w ≠ 0#4) ∨
    (fieldFamily w = 0x8#4 ∧ (fieldN w).toNat ∈ [0x8, 0x9, 0xA, 0xB, 0xC, 0xD, 0xF]) ∨
    (fieldFamily w = 0xE#4 ∧ (fieldKK w).toNat ∉ [0x9E, 0xA1]) ∨
    (fieldFamily w = 0xF#4 ∧
      (fieldKK w).toNat ∉ [0x07, 0x0A, 0x15, 0x18, 0x1E, 0x29, 0x33, 0x55, 0x65])

/-- Words the spec writes out decode to the instruction it says they are. That `82 36` is SHR rests on the low nibbles
of family 8, which the spec reads off the list order, and that `E2 9E` is SKP on its general knowledge (log entry 12).
From R43. -/
def Obligations.WrittenWordsDecode : Prop :=
  decode [0x60, 0x08] = .ok (.ldImm 0 0x08, []) ∧ decode [0xA0, 0x55] = .ok (.ldI 0x055, []) ∧
  decode [0xD0, 0x05] = .ok (.drw 0 0 5, []) ∧ decode [0x00, 0xE0] = .ok (.cls, []) ∧
  decode [0x22, 0x0A] = .ok (.call 0x20A, []) ∧ decode [0x12, 0x0E] = .ok (.jp 0x20E, []) ∧
  decode [0xF0, 0x1E] = .ok (.addI 0, []) ∧ decode [0x00, 0xEE] = .ok (.ret, []) ∧
  decode [0x00, 0x00] = .ok (.sys 0, []) ∧ decode [0x36, 0x04] = .ok (.seImm 6 0x04, []) ∧
  decode [0xF0, 0x33] = .ok (.ldB 0, []) ∧ decode [0x82, 0x36] = .ok (.shr 2 3, []) ∧
  decode [0xE2, 0x9E] = .ok (.skp 2, []) ∧ decode [0x80, 0x18] = .error (.unrecognised 0x8018)

/-! ### One tick -/

/-- A tick of a running machine whose `pc` lies in the program and whose next two bytes decode to an instruction runs
that instruction, after clearing the draw signal and the key-wait mark, and then finishes the tick. From R115, R31,
R44. -/
def Obligations.StepRunsDecodedInstruction : Prop :=
  ∀ (s : State) (i : Instr), s.run = .running → s.pc.toNat < 0x200 + s.romlength → s.pc.toNat + 1 ≤ 0xFFF →
    decode [s.byteAt s.pc.toNat, s.byteAt (s.pc.toNat + 1)] = .ok (i, []) →
    step s = andThen (exec i { s with drawFlag := false, keyWaiting := false }) State.endTick

/-- A tick that fetches an unrecognised word emits one diagnostic with the word, advances `pc` by 2, changes nothing
else, and then finishes the tick. The advance is the spec's decision D6 (log entry 7). From R95, R115. -/
def Obligations.StepReportsUnrecognisedWord : Prop :=
  ∀ (s : State) (w : Word), s.run = .running → s.pc.toNat < 0x200 + s.romlength → s.pc.toNat + 1 ≤ 0xFFF →
    decode [s.byteAt s.pc.toNat, s.byteAt (s.pc.toNat + 1)] = .error (.unrecognised w) →
    step s = .next (State.endTick { s with
      drawFlag := false, keyWaiting := false, pc := s.pc + 2#16,
      events := s.events ++ [.diagUnrecognised w] })

/-- A fetch whose second or first byte lies above 0xFFF aborts the run with MemoryBounds before anything is decoded:
the diagnostic has the `pc` and no word. The fault is the spec's decision D2; the recorded address is log entry 9.
That the diagnostic has the `pc` and no word is its decision D21 (log entry 19). From R33, R106, R110. -/
def Obligations.StepFetchOutOfBoundsAborts : Prop :=
  ∀ s : State, s.run = .running → s.pc.toNat < 0x200 + s.romlength → 0xFFF ≤ s.pc.toNat →
    step s = .next { s with
      drawFlag := false, keyWaiting := false, run := .aborted (.memoryBounds (max s.pc.toNat 0x1000)),
      events := s.events ++ [.diagFatal (.memoryBounds (max s.pc.toNat 0x1000)) s.pc none] }

/-- At the top of a tick, running or paused, `pc` at or past the end of the program halts the run and does nothing
else. The place of the test is the spec's decision D23. From R132, R115. -/
def Obligations.StepHaltsPastProgram : Prop :=
  ∀ s : State, s.run = .running ∨ s.run = .paused → 0x200 + s.romlength ≤ s.pc.toNat →
    step s = .next { s with run := .halted }

/-- Halted and Aborted are terminal: no step follows; every other state either steps or stops on a host outside its
contract. From R114, R108, R86. -/
def Obligations.TerminalRunStatesHaveNoStep : Prop :=
  ∀ s : State,
    (s.run = .halted → step s = .fault .halted) ∧
    (∀ c, s.run = .aborted c → step s = .fault (.aborted c)) ∧
    (s.run = .running ∨ s.run = .paused →
      (∃ t, step s = .next t) ∨ ∃ key, step s = .refused (.keyWaitOutOfContract key))

/-- What follows the instruction in a tick: nothing where it ended the run or is still waiting; otherwise the host is
polled, a quit halts and wins over a pause, a pause stops the tick, and a tick that goes on presents what was drawn
and counts. The order is the spec's decision D24. From R115, R112, R113, R103. -/
def Obligations.TickPollsPresentsAndCounts : Prop :=
  ∀ s : State,
    (s.run ≠ .running ∨ s.keyWaiting = true → s.endTick = s) ∧
    (s.run = .running → s.keyWaiting = false →
      (s.drawPoll.1.running = false → s.endTick = { s with ports := s.drawPoll.2.ports, run := .halted }) ∧
      (s.drawPoll.1.running = true → s.drawPoll.1.paused = true →
        s.endTick = { s with ports := s.drawPoll.2.ports, run := .paused }) ∧
      (s.drawPoll.1.running = true → s.drawPoll.1.paused = false → s.drawFlag = true →
        s.endTick = ({ s with ports := s.drawPoll.2.ports } : State).compose.countTick) ∧
      (s.drawPoll.1.running = true → s.drawPoll.1.paused = false → s.drawFlag = false →
        s.endTick = ({ s with ports := s.drawPoll.2.ports } : State).countTick))

/-- A paused tick executes nothing, presents nothing and only polls: it stays paused, halts on a quit, or resumes, and
only a resumed tick counts for the timers. That the timers stand still is the spec's decision D26. From R113, R115,
R127. -/
def Obligations.PausedTickOnlyPolls : Prop :=
  ∀ s : State, s.run = .paused → s.pc.toNat < 0x200 + s.romlength →
    (s.drawPoll.1.running = false → step s = .next { s with
      drawFlag := false, keyWaiting := false, ports := s.drawPoll.2.ports, run := .halted }) ∧
    (s.drawPoll.1.running = true → s.drawPoll.1.paused = true → step s = .next { s with
      drawFlag := false, keyWaiting := false, ports := s.drawPoll.2.ports, run := .paused }) ∧
    (s.drawPoll.1.running = true → s.drawPoll.1.paused = false → step s = .next (State.countTick { s with
      drawFlag := false, keyWaiting := false, ports := s.drawPoll.2.ports, run := .running }))

/-- `n` timer events take both timers down by `n`, never below zero, ring once for each event that found the sound
timer not 0, and change nothing else. One bell per event is the spec's decision D27. From R117, R118, R16, R17. -/
def Obligations.TimerEventsCountDownAndRing : Prop :=
  ∀ (n : Nat) (s : State),
    (State.timerEvent^[n] s).dt.toNat = s.dt.toNat - n ∧
    (State.timerEvent^[n] s).st.toNat = s.st.toNat - n ∧
    (State.timerEvent^[n] s).events = s.events ++ List.replicate (min n s.st.toNat) .bell ∧
    (State.timerEvent^[n] s).pc = s.pc ∧
    OnlyChanges [] [.delayTimer, .soundTimer, .events] s (State.timerEvent^[n] s)

/-- From a counter of 0, TIMER_RATIO counted ticks hold exactly one timer event, in the last of them. The place of the
counter is the spec's decision D24. From R115, R117, R24. -/
def Obligations.TimerEventEveryRatioTicks : Prop :=
  ∀ s : State, 1 ≤ s.cfg.timerRatio → s.tickCtr = 0 →
    (∀ k, k < s.cfg.timerRatio → State.countTick^[k] s = { s with tickCtr := k }) ∧
    State.countTick^[s.cfg.timerRatio] s = s.timerEvent

/-! ### Reset and invariants -/

/-- The reset state with an empty program. The zeros are the spec's decision D1 (log entry 1), the font bytes are the
spec's default FONT (log entry 2). From R28, R19, R128. -/
def Obligations.ResetLeavesTheTabulatedValues : Prop :=
  (∀ x, State.reset.reg x = 0#8) ∧ State.reset.I = 0#16 ∧ State.reset.pc = 0x200#16 ∧ State.reset.sp = 0 ∧
  (∀ k : Fin 16, State.reset.stack[k.val] = 0#16) ∧ State.reset.dt = 0#8 ∧ State.reset.st = 0#8 ∧
  fontTable.length = 80 ∧
  (∀ k (h : k < fontTable.length), State.reset.byteAt (0x050 + k) = fontTable[k]) ∧
  (∀ a, a < 0x050 ∨ 0x0A0 ≤ a → State.reset.byteAt a = 0#8) ∧
  (∀ px py, State.reset.fb.pixel px py = false) ∧ State.reset.romlength = 0 ∧ State.reset.run = .running ∧
  State.reset.tickCtr = 0 ∧ State.reset.drawFlag = false ∧
  State.reset.hist = List.replicate State.reset.cfg.depth Frame.blank ∧ State.reset.events = []

/-- The invariants hold at reset. From R28, R15, R24, R26. -/
def Obligations.ResetMeetsInvariants : Prop := State.reset.Inv ∧ State.reset.PcInv

/-- Construction under any configuration, FONT and rom leaves the machine as R28 tabulates it: the font at 0x050, the
program at 0x200 and zero elsewhere in memory, the length recorded, every register, `I`, `sp`, stack slot, timer,
pixel, `tick_ctr` and `draw_flag` zero, a blank ring of DEPTH frames, no event, Running at 0x200, and the invariants
met; a program of more than 3584 bytes is refused. The zeros are the spec's decision D1, the blank ring its decision
D29, the empty event sequence its decision D32 (log entry 1), the refusal its decision D33. From R28, R128, R129, R36.
-/
def Obligations.ConstructLoadsFontAndProgram : Prop :=
  ∀ (cfg : Config) (font : Vector Byte 80) (rom : List Byte),
    (3584 < rom.length → construct cfg font rom = .error (.romTooLong rom.length)) ∧
    (rom.length ≤ 3584 → ∃ s, construct cfg font rom = .ok s ∧ s.pc = 0x200#16 ∧ s.run = .running ∧
      s.romlength = rom.length ∧ s.cfg = cfg ∧
      (∀ x, s.reg x = 0#8) ∧ s.I = 0#16 ∧ s.sp = 0 ∧ (∀ k : Fin 16, s.stack[k.val] = 0#16) ∧
      s.dt = 0#8 ∧ s.st = 0#8 ∧ (∀ px py, s.fb.pixel px py = false) ∧ s.tickCtr = 0 ∧ s.drawFlag = false ∧
      s.hist.length = cfg.depth ∧ (∀ f ∈ s.hist, f = Frame.blank) ∧ s.events = [] ∧
      (∀ k : Fin 80, s.byteAt (0x050 + k.val) = font[k.val]) ∧
      (∀ k (h : k < rom.length), s.byteAt (0x200 + k) = rom[k]) ∧
      (∀ a, a < 0x050 ∨ (0x0A0 ≤ a ∧ a < 0x200) ∨ 0x200 + rom.length ≤ a → s.byteAt a = 0#8) ∧
      (cfg.Legal → s.Inv ∧ s.PcInv))

/-- Every tick keeps the ranges the spec gives the state. From R15, R18, R21, R24, R26, R6. -/
def Obligations.StepKeepsInvariant : Prop :=
  ∀ s t : State, s.Inv → step s = .next t → t.Inv

/-- Every tick keeps `pc` at most 0x10FE and every return address inside memory, so that no `pc + 2` or `pc + 4`
wraps. From R14, R132, R33. -/
def Obligations.StepKeepsProgramCounterBound : Prop :=
  ∀ s t : State, s.Inv → s.PcInv → step s = .next t → t.PcInv

/-! ### Rules of the whole machine -/

/-- Every instruction answers a next state, but for a wait the host answers outside its contract (R86; the refusal is
the spec's decision D17). From R108, R86, R52. -/
def Obligations.EveryInstructionAnswersNext : Prop :=
  ∀ (i : Instr) (s : State),
    (∃ t, exec i s = .next t) ∨
    ∃ x key rest, i = .ldVxK x ∧ s.ports.keyWait = .answered key false :: rest ∧ 16 ≤ key.toNat ∧
      exec i s = .refused (.keyWaitOutOfContract key)

/-- An instruction that aborts the run changes nothing else but the event sequence, to which it adds one diagnostic
with the cause, the `pc` and its word. That it leaves no partial effect is the spec's decision D20, the form of the
diagnostic its decision D21. From R108, R106. -/
def Obligations.FatalConditionIsPrecise : Prop :=
  ∀ (i : Instr) (s t : State) (c : Cause), s.run = .running → exec i s = .next t → t.run = .aborted c →
    t = { s with run := .aborted c, events := s.events ++ [.diagFatal c s.pc (some (encode i))] }

/-- The fatal conditions are exactly those of R105's table, with the value it records, in the order of R110. Causes 6
and 7 are the spec's decisions D2 and D16, the order D13 and D22, the recorded address log entry 9. From R105, R110,
R79, R80. -/
def Obligations.FatalConditionsAreTheTabulated : Prop :=
  ∀ (i : Instr) (s : State) (c : Cause), s.run = .running → s.sp ≤ s.cfg.stackLimit.toNat →
    ((∃ t, exec i s = .next t ∧ t.run = .aborted c) ↔ fatalCondition i s = some c)

/-- Each kind of state changes only by the instructions the spec names: memory by `Fx33` and `Fx55`, the framebuffer
by `00E0` and `Dxyn`, `I` by `Annn`, `Fx1E` and `Fx29`, `sp` by `2nnn` and `00EE`, the stack slots by `2nnn`, DT by
`Fx15`, ST by `Fx18`; the configuration, `romlength`, the timer counter and the ring by none. That `Fx55` and `Fx65`
leave `I` as it was is the spec's decision D18 (log entry 16). From R34, R12, R15, R16, R17, R20, R21, R22, R24, R26,
R93, R94. -/
def Obligations.OnlyTheNamedInstructionsWrite : Prop :=
  ∀ (i : Instr) (s t : State), exec i s = .next t →
    ((∀ x, i ≠ .ldB x ∧ i ≠ .storeRegs x) → ∀ a, t.byteAt a = s.byteAt a) ∧
    (i ≠ .cls → (∀ x y n, i ≠ .drw x y n) → t.fb = s.fb) ∧
    ((∀ nnn x, i ≠ .ldI nnn ∧ i ≠ .addI x ∧ i ≠ .ldF x) → t.I = s.I) ∧
    (i ≠ .ret → (∀ nnn, i ≠ .call nnn) → t.sp = s.sp) ∧
    ((∀ nnn, i ≠ .call nnn) → t.stack = s.stack) ∧
    ((∀ x, i ≠ .ldDtVx x) → t.dt = s.dt) ∧
    ((∀ x, i ≠ .ldStVx x) → t.st = s.st) ∧
    t.cfg = s.cfg ∧ t.romlength = s.romlength ∧ t.tickCtr = s.tickCtr ∧ t.hist = s.hist

/-- An instruction changes no general register but its destinations: VF is a destination of the six flag writers R11
lists and of no other except through its own `x` field. That the logic instructions write no flag is the spec's
decision D11. From R10, R11. -/
def Obligations.OtherRegistersKeepTheirValue : Prop :=
  ∀ (i : Instr) (s t : State) (r : RegIdx), exec i s = .next t → r ∉ destinations i → t.reg r = s.reg r

/-- No tick changes the configuration or the recorded program length. From R6, R21. -/
def Obligations.ConfigurationAndLengthNeverChange : Prop :=
  ∀ s t : State, step s = .next t → t.cfg = s.cfg ∧ t.romlength = s.romlength

/-- A tick only appends to the output event sequence. From R27. -/
def Obligations.EventSequenceOnlyGrows : Prop :=
  ∀ s t : State, step s = .next t → s.events <+: t.events

/-- The compositor can be removed: a presentation changes nothing but the events and the ring; and the machine and the
machine whose ticks compose nothing, started in states that agree but for the ring and the Present events, still
agree, but for those, after any number of ticks, and stop alike. Formalises R102. -/
def Obligations.CompositorNeverFeedsBack : Prop :=
  (∀ s : State, s.compose.pc = s.pc ∧ OnlyChanges [] [.events, .history] s s.compose) ∧
  ∀ (k : Nat) (s s' : State), s.withoutCompositor = s'.withoutCompositor →
    outcomeWithoutCompositor (Host.Core.run core k s) =
      outcomeWithoutCompositor (Host.Core.run coreWithoutCompositor k s')

/-- A table word stored where the next fetch is made is the word the next tick runs, and the storing changes no
register, no stack slot and no byte but the two it stores. How a program comes to run is log entry 6. From R115, R129,
R31. -/
def Obligations.FetchWordRunsNext : Prop :=
  ∀ (s : State) (w : Word),
    step (s.withFetchWord 16 w.toNat) =
      andThen (execWord w (s.withFetchWord 16 w.toNat).beginTick) State.endTick ∧
    decodeTableWord 16 w.toNat = decodeWord w ∧
    OnlyChanges [] [.memory, .romlength, .runState] s (s.withFetchWord 16 w.toNat) ∧
    (s.pc.toNat ≤ 0xFFE → (s.withFetchWord 16 w.toNat).pc = s.pc) ∧
    (∀ a, a ≠ (s.withFetchWord 16 w.toNat).pc.toNat → a ≠ (s.withFetchWord 16 w.toNat).pc.toNat + 1 →
      (s.withFetchWord 16 w.toNat).byteAt a = s.byteAt a)

/-! ### Family 0, jumps, call and skips -/

/-- `00E0` completes: every pixel unlit, the draw signal by DRAW_FLAG_ON_CLS, `pc + 2`, nothing else; the word is
0x00E0 exactly. Formalises R53. -/
def Obligations.ClearScreenUnlightsEveryPixel : Prop :=
  (∀ w : Word, decodeWord w = some .cls ↔ w = 0x00E0#16) ∧
  ∀ s : State, ∃ t, exec .cls s = .next t ∧ (∀ r c, t.fb.byte r c = 0#8) ∧
    t.drawFlag = (s.drawFlag || s.cfg.drawFlagOnCls) ∧ t.pc = s.pc + 2#16 ∧
    OnlyChanges [] [.framebuffer, .drawSignal] s t

/-- `00EE` completes with frames on the stack: the topmost slot is popped and kept, `pc` is its address plus 2,
unchecked (the spec's decision D39); with none it aborts and has no other effect (D20, D21). The slot order is the
spec's decision D5. From R54, R15. -/
def Obligations.ReturnPopsTheCallAddress : Prop :=
  ∀ s : State,
    (∀ k : Fin 16, s.sp = k.val + 1 → ∃ t, exec .ret s = .next t ∧ t.sp = k.val ∧
      t.pc = s.stack[k.val] + 2#16 ∧ OnlyChanges [] [.sp] s t) ∧
    (s.sp = 0 → ∃ t, exec .ret s = .next t ∧ t.run = .aborted .stackUnderflow ∧ t.pc = s.pc ∧
      OnlyChanges [] [.runState, .events] s t)

/-- `0nnn` completes as a no-operation: `pc + 2` and nothing else; it is every word of family 0 but 0x00E0 and 0x00EE
(the spec's decision D38). That no diagnostic is emitted is the spec's own inference in R55. From R55, R45. -/
def Obligations.SystemCallDoesNothing : Prop :=
  (∀ w : Word, fieldFamily w = 0x0#4 → w ≠ 0x00E0#16 → w ≠ 0x00EE#16 → decodeWord w = some (.sys (fieldNNN w))) ∧
  ∀ (s : State) (nnn : Addr12), ∃ t, exec (.sys nnn) s = .next t ∧ t.pc = s.pc + 2#16 ∧ OnlyChanges [] [] s t

/-- `1nnn` completes for a target of 0x200 or more: `pc` is the target and nothing else changes, whatever the
policies; a lower target aborts with JumpTargetRange, recording it, and with no other effect (the spec's decisions
D20, D21). From R56, R14. -/
def Obligations.JumpSetsThePc : Prop :=
  (∀ w : Word, fieldFamily w = 0x1#4 → decodeWord w = some (.jp (fieldNNN w))) ∧
  ∀ (s : State) (nnn : Addr12),
    (0x200 ≤ nnn.toNat → ∃ t, exec (.jp nnn) s = .next t ∧ t.pc.toNat = nnn.toNat ∧ OnlyChanges [] [] s t) ∧
    (nnn.toNat < 0x200 → ∃ t, exec (.jp nnn) s = .next t ∧ t.run = .aborted (.jumpTargetRange nnn) ∧ t.pc = s.pc ∧
      OnlyChanges [] [.runState, .events] s t)

/-- `2nnn` completes with room on the stack and a target of 0x200 or more: its own address goes to slot `sp`, `sp` and
`pc` move, other slots and everything else stay. With a full stack it aborts with StackOverflow, whatever the target
(the spec's decision D22); with room and a lower target, with JumpTargetRange. That an aborted call leaves `sp`, the
slots and `pc` as they were is its decision D20 (log entry 19), the slot order its decision D5 (log entry 17). From
R57, R15, R110, R108. -/
def Obligations.CallPushesItsOwnAddress : Prop :=
  ∀ (s : State) (nnn : Addr12),
    (s.sp < s.cfg.stackLimit.toNat → 0x200 ≤ nnn.toNat → ∃ t, exec (.call nnn) s = .next t ∧ t.sp = s.sp + 1 ∧
      t.pc.toNat = nnn.toNat ∧ (∀ k : Fin 16, t.stack[k.val] = if k.val = s.sp then s.pc else s.stack[k.val]) ∧
      OnlyChanges [] [.sp, .stack] s t) ∧
    (s.sp = s.cfg.stackLimit.toNat → ∃ t, exec (.call nnn) s = .next t ∧ t.run = .aborted .stackOverflow ∧
      t.pc = s.pc ∧ OnlyChanges [] [.runState, .events] s t) ∧
    (s.sp < s.cfg.stackLimit.toNat → nnn.toNat < 0x200 → ∃ t, exec (.call nnn) s = .next t ∧
      t.run = .aborted (.jumpTargetRange nnn) ∧ t.pc = s.pc ∧ OnlyChanges [] [.runState, .events] s t)

/-- A return from a call, after whatever left the stack as the call did, comes back 2 bytes after the call with the
stack pointer as it was. From R135, R54, R57. -/
def Obligations.ReturnUndoesCall : Prop :=
  ∀ (s : State) (nnn : Addr12), s.sp < s.cfg.stackLimit.toNat → 0x200 ≤ nnn.toNat →
    ∃ t, exec (.call nnn) s = .next t ∧
      ∀ u : State, u.sp = t.sp → u.stack = t.stack →
        ∃ v, exec .ret u = .next v ∧ v.pc = s.pc + 2#16 ∧ v.sp = s.sp

/-- `3xkk` and `4xkk` complete: `pc + 4` where the comparison holds, else `pc + 2`, and nothing else. Formalises R58,
R59. -/
def Obligations.SkipOnImmediate : Prop :=
  (∀ w : Word, fieldFamily w = 0x3#4 → decodeWord w = some (.seImm (fieldX w) (fieldKK w))) ∧
  (∀ w : Word, fieldFamily w = 0x4#4 → decodeWord w = some (.sneImm (fieldX w) (fieldKK w))) ∧
  ∀ (s : State) (x : RegIdx) (kk : Byte),
    (∃ t, exec (.seImm x kk) s = .next t ∧ t.pc = (if s.reg x = kk then s.pc + 4#16 else s.pc + 2#16) ∧
      OnlyChanges [] [] s t) ∧
    (∃ t, exec (.sneImm x kk) s = .next t ∧ t.pc = (if s.reg x ≠ kk then s.pc + 4#16 else s.pc + 2#16) ∧
      OnlyChanges [] [] s t)

/-- `5xy0` and `9xy0` complete: `pc + 4` where the registers are equal, or differ, else `pc + 2`, and nothing else.
From R60, R61. -/
def Obligations.SkipOnRegisters : Prop :=
  ∀ (s : State) (x y : RegIdx),
    (∃ t, exec (.seReg x y) s = .next t ∧ t.pc = (if s.reg x = s.reg y then s.pc + 4#16 else s.pc + 2#16) ∧
      OnlyChanges [] [] s t) ∧
    (∃ t, exec (.sneReg x y) s = .next t ∧ t.pc = (if s.reg x ≠ s.reg y then s.pc + 4#16 else s.pc + 2#16) ∧
      OnlyChanges [] [] s t)

/-- `Bnnn` completes for every target: `pc` is `nnn + V0`, neither checked nor reduced, and nothing else changes.
Formalises R62. -/
def Obligations.JumpWithOffsetIsUnchecked : Prop :=
  (∀ w : Word, fieldFamily w = 0xB#4 → decodeWord w = some (.jpV0 (fieldNNN w))) ∧
  ∀ (s : State) (nnn : Addr12), ∃ t, exec (.jpV0 nnn) s = .next t ∧ t.pc.toNat = nnn.toNat + (s.reg 0#4).toNat ∧
    OnlyChanges [] [] s t

/-! ### Loads and the ALU family -/

/-- `6xkk` and `7xkk` complete: the register takes the immediate, the sum modulo 256; no flag, `pc + 2`, nothing else.
Formalises R63, R64. -/
def Obligations.LoadAndAddImmediate : Prop :=
  (∀ w : Word, fieldFamily w = 0x6#4 → decodeWord w = some (.ldImm (fieldX w) (fieldKK w))) ∧
  (∀ w : Word, fieldFamily w = 0x7#4 → decodeWord w = some (.addImm (fieldX w) (fieldKK w))) ∧
  ∀ (s : State) (x : RegIdx) (kk : Byte),
    (∃ t, exec (.ldImm x kk) s = .next t ∧ t.reg x = kk ∧ t.pc = s.pc + 2#16 ∧ OnlyChanges [x] [] s t) ∧
    (∃ t, exec (.addImm x kk) s = .next t ∧ (t.reg x).toNat = ((s.reg x).toNat + kk.toNat) % 256 ∧
      t.pc = s.pc + 2#16 ∧ OnlyChanges [x] [] s t)

/-- `8xy0`, `8xy1`, `8xy2` and `8xy3` complete: the register takes the other one, or bit by bit the OR, AND, XOR of
both; `pc + 2`, nothing else. That VF is not written is the spec's decision D11, that these low nibbles stand for
these operations its reading of the list order. From R65, R66, R67, R68, R11. -/
def Obligations.AssignAndLogicAreBitwise : Prop :=
  ∀ (s : State) (x y : RegIdx),
    (∃ t, exec (.ldReg x y) s = .next t ∧ t.reg x = s.reg y ∧ t.pc = s.pc + 2#16 ∧ OnlyChanges [x] [] s t) ∧
    (∃ t, exec (.orReg x y) s = .next t ∧
      (∀ b, (t.reg x).getLsbD b = ((s.reg x).getLsbD b || (s.reg y).getLsbD b)) ∧
      t.pc = s.pc + 2#16 ∧ OnlyChanges [x] [] s t) ∧
    (∃ t, exec (.andReg x y) s = .next t ∧
      (∀ b, (t.reg x).getLsbD b = ((s.reg x).getLsbD b && (s.reg y).getLsbD b)) ∧
      t.pc = s.pc + 2#16 ∧ OnlyChanges [x] [] s t) ∧
    (∃ t, exec (.xorReg x y) s = .next t ∧
      (∀ b, (t.reg x).getLsbD b = ((s.reg x).getLsbD b ^^ (s.reg y).getLsbD b)) ∧
      t.pc = s.pc + 2#16 ∧ OnlyChanges [x] [] s t)

/-- `8xy4` completes: VF is the carry out of the operands as they were, the register, unless it is VF, their sum
modulo 256. That the flag survives in VF is the spec's decision D9. From R69, R74. -/
def Obligations.AddRegistersWithCarry : Prop :=
  ∀ (s : State) (x y : RegIdx), ∃ t, exec (.addReg x y) s = .next t ∧
    t.reg regF = (if 256 ≤ (s.reg x).toNat + (s.reg y).toNat then 1#8 else 0#8) ∧
    (x ≠ regF → (t.reg x).toNat = ((s.reg x).toNat + (s.reg y).toNat) % 256) ∧
    t.pc = s.pc + 2#16 ∧ OnlyChanges [x, regF] [] s t

/-- `8xy5` and `8xy7` complete: VF is 1 exactly when the minuend is strictly greater, the register, unless it is VF,
the difference modulo 256. The equality case of `8xy7` is the spec's decision D10, the surviving flag its decision D9.
From R70, R72, R74. -/
def Obligations.SubtractWithNotBorrow : Prop :=
  ∀ (s : State) (x y : RegIdx),
    (∃ t, exec (.subReg x y) s = .next t ∧
      t.reg regF = (if (s.reg y).toNat < (s.reg x).toNat then 1#8 else 0#8) ∧
      (x ≠ regF → (t.reg x).toNat = ((s.reg x).toNat + 256 - (s.reg y).toNat) % 256) ∧
      t.pc = s.pc + 2#16 ∧ OnlyChanges [x, regF] [] s t) ∧
    (∃ t, exec (.subn x y) s = .next t ∧
      t.reg regF = (if (s.reg x).toNat < (s.reg y).toNat then 1#8 else 0#8) ∧
      (x ≠ regF → (t.reg x).toNat = ((s.reg y).toNat + 256 - (s.reg x).toNat) % 256) ∧
      t.pc = s.pc + 2#16 ∧ OnlyChanges [x, regF] [] s t)

/-- `8xy6` and `8xyE` complete, shifting the register SHIFT_SOURCE names (the spec's decision D8): VF is the bit
shifted out, the register, unless it is VF, half or twice the source modulo 256. The surviving flag is the spec's
decision D9. From R71, R73, R74. -/
def Obligations.ShiftsMoveOneBitOut : Prop :=
  ∀ (s : State) (x y : RegIdx) (v : Byte),
    (s.cfg.shiftSource = .x → v = s.reg x) → (s.cfg.shiftSource = .y → v = s.reg y) →
    (∃ t, exec (.shr x y) s = .next t ∧ (t.reg regF).toNat = v.toNat % 2 ∧
      (x ≠ regF → (t.reg x).toNat = v.toNat / 2) ∧ t.pc = s.pc + 2#16 ∧ OnlyChanges [x, regF] [] s t) ∧
    (∃ t, exec (.shl x y) s = .next t ∧ (t.reg regF).toNat = v.toNat / 128 ∧
      (x ≠ regF → (t.reg x).toNat = 2 * v.toNat % 256) ∧ t.pc = s.pc + 2#16 ∧ OnlyChanges [x, regF] [] s t)

/-- `Cxkk` completes: the register takes the byte the random port gives, whatever it is, under the mask; only the port
moves besides, and `pc + 2`. That the byte is a free draw is the spec's decision D40; how the port's answers are taken
is the model's choice (log entry 4). From R76, R123, R7. -/
def Obligations.RandomByteUnderMask : Prop :=
  (∀ w : Word, fieldFamily w = 0xC#4 → decodeWord w = some (.rnd (fieldX w) (fieldKK w))) ∧
  ∀ (s : State) (x : RegIdx) (kk : Byte), ∃ t, exec (.rnd x kk) s = .next t ∧
    t.reg x = s.drawRandom.1 &&& kk ∧ t.reg x &&& ~~~kk = 0#8 ∧ t.ports = s.drawRandom.2.ports ∧
    t.pc = s.pc + 2#16 ∧ OnlyChanges [x] [.ports] s t

/-! ### The index register, timers, memory -/

/-- `Annn` and `Fx1E` complete: `I` takes the address, or the sum modulo 65536 with no flag and no reduction to 12
bits; `pc + 2`, nothing else. Formalises R75, R90. -/
def Obligations.IndexLoadAndAdd : Prop :=
  (∀ w : Word, fieldFamily w = 0xA#4 → decodeWord w = some (.ldI (fieldNNN w))) ∧
  (∀ w : Word, fieldFamily w = 0xF#4 → fieldKK w = 0x1E#8 → decodeWord w = some (.addI (fieldX w))) ∧
  ∀ (s : State) (x : RegIdx) (nnn : Addr12),
    (∃ t, exec (.ldI nnn) s = .next t ∧ t.I.toNat = nnn.toNat ∧ t.pc = s.pc + 2#16 ∧
      OnlyChanges [] [.index] s t) ∧
    (∃ t, exec (.addI x) s = .next t ∧ t.I.toNat = (s.I.toNat + (s.reg x).toNat) % 65536 ∧
      t.pc = s.pc + 2#16 ∧ OnlyChanges [] [.index] s t)

/-- `Fx29` completes: `I` is `0x050 + 5 * V[x]` with all eight bits used (the spec's decision D19); `pc + 2`, nothing
else. From R91. -/
def Obligations.GlyphAddressOfDigit : Prop :=
  ∀ (s : State) (x : RegIdx), ∃ t, exec (.ldF x) s = .next t ∧ t.I.toNat = 0x050 + 5 * (s.reg x).toNat ∧
    t.pc = s.pc + 2#16 ∧ OnlyChanges [] [.index] s t

/-- `Fx07`, `Fx15` and `Fx18` complete: DT to the register, the register to DT, the register to ST; no event, `pc +
2`, nothing else. The directions are the spec's decision D37. From R87, R88, R89. -/
def Obligations.TimerMoves : Prop :=
  ∀ (s : State) (x : RegIdx),
    (∃ t, exec (.ldVxDt x) s = .next t ∧ t.reg x = s.dt ∧ t.pc = s.pc + 2#16 ∧ OnlyChanges [x] [] s t) ∧
    (∃ t, exec (.ldDtVx x) s = .next t ∧ t.dt = s.reg x ∧ t.pc = s.pc + 2#16 ∧
      OnlyChanges [] [.delayTimer] s t) ∧
    (∃ t, exec (.ldStVx x) s = .next t ∧ t.st = s.reg x ∧ t.pc = s.pc + 2#16 ∧
      OnlyChanges [] [.soundTimer] s t)

/-- `Fx33` completes where its three bytes lie in memory: the hundreds, tens and ones digits go to `I`, `I + 1`, `I +
2`, every other byte reads as before, `I` stays, `pc + 2`. The bound is the spec's decision D2. From R92, R33. -/
def Obligations.BcdStoresThreeDigits : Prop :=
  ∀ (s : State) (x : RegIdx) (a : Nat), effectiveAddress s 0 = a → a + 2 ≤ 0xFFF →
    ∃ t, exec (.ldB x) s = .next t ∧
      (t.byteAt a).toNat = (s.reg x).toNat / 100 ∧
      (t.byteAt (a + 1)).toNat = (s.reg x).toNat / 10 % 10 ∧
      (t.byteAt (a + 2)).toNat = (s.reg x).toNat % 10 ∧
      (∀ b, b < a ∨ a + 3 ≤ b → t.byteAt b = s.byteAt b) ∧
      t.pc = s.pc + 2#16 ∧ OnlyChanges [] [.memory] s t

/-- `Fx55` completes where its bytes lie in memory: V0 to Vx go to `I` to `I + x`, every other byte reads as before,
`I` stays (the spec's decision D18), `pc + 2`. The bound is its decision D2. From R93, R33. -/
def Obligations.BlockStoreWritesRegisters : Prop :=
  ∀ (s : State) (x : RegIdx) (a : Nat), effectiveAddress s 0 = a → a + x.toNat ≤ 0xFFF →
    ∃ t, exec (.storeRegs x) s = .next t ∧
      (∀ r : RegIdx, r.toNat ≤ x.toNat → t.byteAt (a + r.toNat) = s.reg r) ∧
      (∀ b, b < a ∨ a + x.toNat < b → t.byteAt b = s.byteAt b) ∧
      t.pc = s.pc + 2#16 ∧ OnlyChanges [] [.memory] s t

/-- `Fx65` completes where its bytes lie in memory: V0 to Vx take the bytes at `I` to `I + x`, the registers above
stay, `I` stays (the spec's decision D18), every byte reads as before, `pc + 2`. The bound is its decision D2. From
R94, R33. -/
def Obligations.BlockLoadReadsRegisters : Prop :=
  ∀ (s : State) (x : RegIdx) (a : Nat), effectiveAddress s 0 = a → a + x.toNat ≤ 0xFFF →
    ∃ t, exec (.loadRegs x) s = .next t ∧
      (∀ r : RegIdx, r.toNat ≤ x.toNat → t.reg r = s.byteAt (a + r.toNat)) ∧
      (∀ r : RegIdx, x.toNat < r.toNat → t.reg r = s.reg r) ∧
      t.pc = s.pc + 2#16 ∧ OnlyChanges (destinations (.loadRegs x)) [] s t

/-- A block store, then a block load of the same range from the same `I`, in any state whose memory is as the store
left it, reproduces the registers exactly. From R93, R94. -/
def Obligations.BlockStoreThenLoadRestores : Prop :=
  ∀ (s : State) (x : RegIdx), s.I.toNat + x.toNat ≤ 0xFFF →
    ∃ t, exec (.storeRegs x) s = .next t ∧
      ∀ u : State, u.I = s.I → (∀ a, u.byteAt a = t.byteAt a) →
        ∃ v, exec (.loadRegs x) u = .next v ∧ ∀ r : RegIdx, r.toNat ≤ x.toNat → v.reg r = s.reg r

/-! ### The keyboard -/

/-- `Ex9E` and `ExA1` complete for a key 0 to 15: one query, `pc + 4` where the key is down, or up, else `pc + 2`,
nothing else but the port moves. The polarity is the spec's decision D37. A larger value aborts with KeyRange, asking
nothing (its decision D16). From R84, R85, R121. -/
def Obligations.SkipOnKey : Prop :=
  ∀ (s : State) (x : RegIdx),
    ((s.reg x).toNat < 16 →
      (∃ t, exec (.skp x) s = .next t ∧
        t.pc = (if s.drawKeyDown.1 = true then s.pc + 4#16 else s.pc + 2#16) ∧
        t.ports = s.drawKeyDown.2.ports ∧ OnlyChanges [] [.ports] s t) ∧
      (∃ t, exec (.sknp x) s = .next t ∧
        t.pc = (if s.drawKeyDown.1 = false then s.pc + 4#16 else s.pc + 2#16) ∧
        t.ports = s.drawKeyDown.2.ports ∧ OnlyChanges [] [.ports] s t)) ∧
    (16 ≤ (s.reg x).toNat →
      ∀ i, i = .skp x ∨ i = .sknp x → ∃ t, exec i s = .next t ∧ t.run = .aborted (.keyRange (s.reg x)) ∧
        t.pc = s.pc ∧ OnlyChanges [] [.runState, .events] s t)

/-- `Fx0A` completes with a key 0 to 15: the register takes it and `pc + 2`. On a quit the run is Halted with `pc` and
every register as they were. While the host has not answered nothing but the mark of the outstanding call and the port
changes. A key of 16 or more without a quit is refused (the spec's decision D17). From R86, R122. -/
def Obligations.KeyWaitStoresTheKey : Prop :=
  ∀ (s : State) (x : RegIdx),
    (∀ key, s.drawKeyWait.1 = .answered key false → key.toNat < 16 → ∃ t, exec (.ldVxK x) s = .next t ∧
      t.reg x = key ∧ t.pc = s.pc + 2#16 ∧ t.keyWaiting = false ∧ t.ports = s.drawKeyWait.2.ports ∧
      OnlyChanges [x] [.ports, .keyWaiting] s t) ∧
    (∀ key, s.drawKeyWait.1 = .answered key true → ∃ t, exec (.ldVxK x) s = .next t ∧
      t.run = .halted ∧ t.pc = s.pc ∧ t.keyWaiting = false ∧ t.ports = s.drawKeyWait.2.ports ∧
      OnlyChanges [] [.runState, .ports, .keyWaiting] s t) ∧
    (s.drawKeyWait.1 = .pending → ∃ t, exec (.ldVxK x) s = .next t ∧
      t.pc = s.pc ∧ t.keyWaiting = true ∧ t.ports = s.drawKeyWait.2.ports ∧
      OnlyChanges [] [.ports, .keyWaiting] s t) ∧
    (∀ key, s.drawKeyWait.1 = .answered key false → 16 ≤ key.toNat →
      exec (.ldVxK x) s = .refused (.keyWaitOutOfContract key))

/-- A tick held in `Fx0A`, or ended there by a quit, polls nothing, presents nothing and counts nothing: both timers,
the counter, the ring and the events stay as they were, and a held tick leaves `pc` at the `Fx0A`. From R86, R119,
R115. -/
def Obligations.KeyWaitHoldsTheTick : Prop :=
  ∀ (s : State) (x : RegIdx), s.run = .running → s.pc.toNat < 0x200 + s.romlength → s.pc.toNat + 1 ≤ 0xFFF →
    decode [s.byteAt s.pc.toNat, s.byteAt (s.pc.toNat + 1)] = .ok (.ldVxK x, []) →
    (s.drawKeyWait.1 = .pending → ∃ t, step s = .next t ∧ t.pc = s.pc ∧ t.ports = s.drawKeyWait.2.ports ∧
      OnlyChanges [] [.drawSignal, .ports, .keyWaiting] s t) ∧
    (∀ key, s.drawKeyWait.1 = .answered key true → ∃ t, step s = .next t ∧ t.run = .halted ∧ t.pc = s.pc ∧
      t.ports = s.drawKeyWait.2.ports ∧ OnlyChanges [] [.runState, .drawSignal, .ports, .keyWaiting] s t)

/-! ### The draw -/

/-- `Dxyn` completes with an origin neither faulting nor clipped and its rows inside memory: a pixel is toggled
exactly when a set sprite pixel has it as its target, VF is 1 exactly when such a pixel was lit, the draw signal is
raised, `pc + 2`, nothing else. The origin is read before VF is cleared (the spec's decision D12), only the rows drawn
are read (D15), and a height of 0 draws nothing (D14). From R83, R78, R79, R81, R82. -/
def Obligations.DrawTogglesTheSpritesPixels : Prop :=
  ∀ (s : State) (x y n : BitVec 4) (cx cy rows : Nat),
    (64 ≤ (s.reg x).toNat → s.cfg.xwrap = .wrap) → (32 ≤ (s.reg y).toNat → s.cfg.ywrap = .wrap) →
    cx = (s.reg x).toNat % 64 → cy = (s.reg y).toNat % 32 →
    rows = (if s.cfg.ywrap = .wrap then n.toNat else min n.toNat (32 - cy)) →
    (rows = 0 ∨ effectiveAddress s rows ≤ 0x1000) →
    ∃ t, exec (.drw x y n) s = .next t ∧
      (∀ (px : Fin 64) (py : Fin 32), SpriteHits s cx cy n.toNat px py →
        t.fb.pixel px py = !s.fb.pixel px py) ∧
      (∀ (px : Fin 64) (py : Fin 32), ¬ SpriteHits s cx cy n.toNat px py →
        t.fb.pixel px py = s.fb.pixel px py) ∧
      ((∃ (px : Fin 64) (py : Fin 32), SpriteHits s cx cy n.toNat px py ∧ s.fb.pixel px py = true) →
        t.reg regF = 1#8) ∧
      ((∀ (px : Fin 64) (py : Fin 32), SpriteHits s cx cy n.toNat px py → s.fb.pixel px py = false) →
        t.reg regF = 0#8) ∧
      t.drawFlag = true ∧ t.pc = s.pc + 2#16 ∧ OnlyChanges [regF] [.framebuffer, .drawSignal] s t

/-- `Dxyn` with an origin out of range on a clipping axis, and on no faulting one (the spec's decision D13), completes
as a suppressed draw: no pixel touched, VF 0, the draw signal by DRAW_FLAG_ON_SUPPRESSED, `pc + 2`, nothing else,
whatever `I` is. That a suppressed draw reads no row, and so completes, is its decision D15 (log entry 15). From R79,
R78, R80. -/
def Obligations.ClippedDrawIsSuppressed : Prop :=
  ∀ (s : State) (x y n : BitVec 4), DrawClipped s (s.reg x) (s.reg y) →
    ¬ (64 ≤ (s.reg x).toNat ∧ s.cfg.xwrap = .fault) → ¬ (32 ≤ (s.reg y).toNat ∧ s.cfg.ywrap = .fault) →
    ∃ t, exec (.drw x y n) s = .next t ∧ t.reg regF = 0#8 ∧
      t.drawFlag = (s.drawFlag || s.cfg.drawFlagOnSuppressed) ∧ t.pc = s.pc + 2#16 ∧
      OnlyChanges [regF] [.drawSignal] s t

/-- Drawing the same sprite twice at the same origin, neither origin register VF and no fatal condition, restores the
framebuffer. From R83. -/
def Obligations.DrawingTwiceRestoresTheScreen : Prop :=
  ∀ (s : State) (x y n : BitVec 4), x ≠ regF → y ≠ regF → fatalCondition (.drw x y n) s = none →
    ∃ t u, exec (.drw x y n) s = .next t ∧ exec (.drw x y n) t = .next u ∧ u.fb = s.fb

/-! ### The compositor -/

/-- A presentation shows a pixel exactly when the current frame or a frame of the ring has it lit, then puts the raw
frame at the head of the ring, moves the others back and drops the oldest; the machine state is untouched. That a
presentation is one appended Present event is the spec's decision D29 (log entry 21). From R98, R99, R100, R101, R102.
-/
def Obligations.PresentationBlendsTheRing : Prop :=
  ∀ s : State, 1 ≤ s.cfg.depth → s.hist.length = s.cfg.depth →
    ∃ out : Frame, s.compose.events = s.events ++ [.present out] ∧
      (∀ r c, out.byte r c = s.hist.foldl (fun b f => b ||| f.byte r c) (s.fb.byte r c)) ∧
      (∀ px py, out.pixel px py = (s.fb.pixel px py || s.hist.any fun f => f.pixel px py)) ∧
      s.compose.hist[0]? = some s.fb ∧ (∀ k, k + 1 < s.cfg.depth → s.compose.hist[k + 1]? = s.hist[k]?) ∧
      s.compose.hist.length = s.cfg.depth ∧ s.compose.pc = s.pc ∧
      OnlyChanges [] [.events, .history] s s.compose

/-- A Present event stands for a clear, one set_pixel for every lit pixel and no other, rows top to bottom and left to
right within a row, and a present. The sequence is the spec's decision D29. From R101, R124. -/
def Obligations.DisplaySetsTheLitPixels : Prop :=
  ∀ out : Frame, ∃ lit : List (Fin 64 × Fin 32),
    displayCalls out = [.clear] ++ lit.map (fun p => .setPixel p.1 p.2) ++ [.present] ∧
    (∀ p, p ∈ lit ↔ out.pixel p.1 p.2 = true) ∧
    lit.Pairwise fun p q => p.2 < q.2 ∨ (p.2 = q.2 ∧ p.1 < q.1)
end

