-- ==== Sys2Proof/Laws/Memory.lean ====
section
/-! SUPPORT. The laws of memory: a read after a write, and that every operation keeps the canonical form. -/

namespace Sys2Proof.Machine

/-! ### A read after a write -/

@[simp] theorem Memory.read_erase (m : Memory) (a b : Nat) :
    (m.erase a).read b = if b = a then Memory.initial a else m.read b := by
  induction m with
  | nil => by_cases h : b = a <;> simp [Memory.erase, Memory.read, h]
  | cons e rest ih =>
    obtain ⟨c, w⟩ := e
    by_cases hc : c = a <;> by_cases hb : b = a <;> by_cases hbc : b = c <;> simp_all [Memory.erase, Memory.read]

theorem Memory.read_insert (m : Memory) (a b : Nat) (x : Byte) (hm : ∀ e ∈ m, e.1 ≠ a) :
    (m.insert a x).read b = if b = a then x else m.read b := by
  induction m with
  | nil => by_cases h : b = a <;> simp [Memory.insert, Memory.read, h]
  | cons e rest ih =>
    obtain ⟨c, w⟩ := e
    have hca : c ≠ a := hm (c, w) (by simp)
    have ih := ih fun e he => hm e (by simp [he])
    unfold Memory.insert
    split
    · by_cases hb : b = a <;> simp [Memory.read, hb]
    · simp only [Memory.read, ih]
      by_cases hbc : b = c
      · simp [hbc, hca]
      · simp [hbc]

theorem Memory.not_mem_erase (m : Memory) (a : Nat) : ∀ e ∈ m.erase a, e.1 ≠ a := by
  induction m with
  | nil => simp [Memory.erase]
  | cons e rest ih =>
    obtain ⟨c, w⟩ := e
    unfold Memory.erase
    split
    · exact ih
    · next h =>
      intro e' he'
      rcases List.mem_cons.1 he' with rfl | h'
      · exact h
      · exact ih e' h'

/-- A byte read after a byte is written. -/
@[simp] theorem Memory.read_write (m : Memory) (a b : Nat) (x : Byte) :
    (m.write a x).read b = if b = a then x else m.read b := by
  unfold Memory.write
  split
  · next h => simp [h]
  · rw [Memory.read_insert _ _ _ _ (Memory.not_mem_erase m a)]
    by_cases hb : b = a <;> simp [hb]

/-- A byte read after bytes are written at rising addresses. -/
theorem Memory.read_writeBytes (xs : List Byte) (m : Memory) (a b : Nat) :
    (m.writeBytes a xs).read b = if a ≤ b then xs.getD (b - a) (m.read b) else m.read b := by
  induction xs generalizing m a with
  | nil => simp [Memory.writeBytes]
  | cons x xs ih =>
    simp only [Memory.writeBytes, ih, Memory.read_write]
    rcases Nat.lt_trichotomy b a with h | h | h
    · have h1 : ¬ a + 1 ≤ b := by omega
      have h2 : ¬ a ≤ b := by omega
      have h3 : b ≠ a := by omega
      simp [h1, h2, h3]
    · subst h; simp
    · have h1 : a + 1 ≤ b := by omega
      have h2 : a ≤ b := by omega
      have h3 : b ≠ a := by omega
      obtain ⟨k, hk⟩ : ∃ k, b - a = k + 1 := ⟨b - a - 1, by omega⟩
      have h4 : b - (a + 1) = k := by omega
      simp [h1, h2, h3, h4, hk]

/-- Bytes written at rising addresses leave every address outside them as it was. -/
theorem Memory.read_writeBytes_outside (xs : List Byte) (m : Memory) (a b : Nat) (h : b < a ∨ a + xs.length ≤ b) :
    (m.writeBytes a xs).read b = m.read b := by
  rw [Memory.read_writeBytes]
  split
  · rw [List.getD_eq_default]; omega
  · rfl

/-! ### The canonical form -/

theorem Memory.wfFrom_mono {lo lo' : Nat} (h : lo' ≤ lo) {m : Memory} (hm : Memory.wfFrom lo m = true) :
    Memory.wfFrom lo' m = true := by
  cases m with
  | nil => rfl
  | cons e rest =>
    simp only [Memory.wfFrom, Bool.and_eq_true, decide_eq_true_eq] at hm ⊢
    refine ⟨⟨⟨?_, hm.1.1.2⟩, hm.1.2⟩, hm.2⟩
    have := hm.1.1.1
    omega

theorem Memory.wfFrom_erase {m : Memory} {lo : Nat} (a : Nat) (hm : Memory.wfFrom lo m = true) :
    Memory.wfFrom lo (m.erase a) = true := by
  induction m generalizing lo with
  | nil => rfl
  | cons e rest ih =>
    obtain ⟨c, w⟩ := e
    simp only [Memory.wfFrom, Bool.and_eq_true, decide_eq_true_eq] at hm
    unfold Memory.erase
    split
    · exact Memory.wfFrom_mono (by have := hm.1.1.1; omega) (ih hm.2)
    · simp only [Memory.wfFrom, Bool.and_eq_true, decide_eq_true_eq]
      exact ⟨hm.1, ih hm.2⟩

theorem Memory.wfFrom_insert {m : Memory} {lo a : Nat} {x : Byte} (hm : Memory.wfFrom lo m = true) (hlo : lo ≤ a)
    (ha : a < 4096) (hx : x ≠ Memory.initial a) (hne : ∀ e ∈ m, e.1 ≠ a) :
    Memory.wfFrom lo (m.insert a x) = true := by
  induction m generalizing lo with
  | nil => simp [Memory.insert, Memory.wfFrom, hlo, ha, hx]
  | cons e rest ih =>
    obtain ⟨c, w⟩ := e
    have hca : c ≠ a := hne (c, w) (by simp)
    simp only [Memory.wfFrom, Bool.and_eq_true, decide_eq_true_eq] at hm
    unfold Memory.insert
    split
    · next h =>
      simp only [Memory.wfFrom, Bool.and_eq_true, decide_eq_true_eq]
      exact ⟨⟨⟨hlo, ha⟩, hx⟩, ⟨⟨by omega, hm.1.1.2⟩, hm.1.2⟩, hm.2⟩
    · next h =>
      simp only [Memory.wfFrom, Bool.and_eq_true, decide_eq_true_eq]
      exact ⟨hm.1, ih hm.2 (by omega) fun e he => hne e (by simp [he])⟩

/-- Writing a byte inside memory keeps the canonical form. -/
theorem Memory.wf_write {m : Memory} (a : Nat) (x : Byte) (hm : m.wf = true) (ha : a < 4096) :
    (m.write a x).wf = true := by
  unfold Memory.write
  split
  · exact Memory.wfFrom_erase a hm
  · next h => exact Memory.wfFrom_insert (Memory.wfFrom_erase a hm) (Nat.zero_le a) ha h (Memory.not_mem_erase m a)

/-- Writing bytes inside memory keeps the canonical form. -/
theorem Memory.wf_writeBytes (xs : List Byte) {m : Memory} (a : Nat) (hm : m.wf = true)
    (ha : a + xs.length ≤ 4096) : (m.writeBytes a xs).wf = true := by
  induction xs generalizing m a with
  | nil => exact hm
  | cons x xs ih =>
    simp only [List.length_cons] at ha
    exact ih (a + 1) (Memory.wf_write a x hm (by omega)) (by omega)

/-- The memory at reset has the canonical form. -/
theorem Memory.wf_nil : Memory.wf [] = true := rfl

end Sys2Proof.Machine
end

