-- ==== Sys2Proof/Laws/State.lean ====
section
/-! SUPPORT. What each update of the state does to each field. -/

namespace Sys2Proof.Machine

/-! ### `State.setReg` -/

@[simp] theorem State.setReg_v (s : State) (x : RegIdx) (a : Byte) : (s.setReg x a).v = s.v.set x.toNat a x.isLt := rfl
@[simp] theorem State.setReg_I (s : State) (x : RegIdx) (a : Byte) : (s.setReg x a).I = s.I := rfl
@[simp] theorem State.setReg_pc (s : State) (x : RegIdx) (a : Byte) : (s.setReg x a).pc = s.pc := rfl
@[simp] theorem State.setReg_sp (s : State) (x : RegIdx) (a : Byte) : (s.setReg x a).sp = s.sp := rfl
@[simp] theorem State.setReg_stack (s : State) (x : RegIdx) (a : Byte) : (s.setReg x a).stack = s.stack := rfl
@[simp] theorem State.setReg_dt (s : State) (x : RegIdx) (a : Byte) : (s.setReg x a).dt = s.dt := rfl
@[simp] theorem State.setReg_st (s : State) (x : RegIdx) (a : Byte) : (s.setReg x a).st = s.st := rfl
@[simp] theorem State.setReg_mem (s : State) (x : RegIdx) (a : Byte) : (s.setReg x a).mem = s.mem := rfl
@[simp] theorem State.setReg_fb (s : State) (x : RegIdx) (a : Byte) : (s.setReg x a).fb = s.fb := rfl
@[simp] theorem State.setReg_romlength (s : State) (x : RegIdx) (a : Byte) : (s.setReg x a).romlength = s.romlength := rfl
@[simp] theorem State.setReg_run (s : State) (x : RegIdx) (a : Byte) : (s.setReg x a).run = s.run := rfl
@[simp] theorem State.setReg_tickCtr (s : State) (x : RegIdx) (a : Byte) : (s.setReg x a).tickCtr = s.tickCtr := rfl
@[simp] theorem State.setReg_drawFlag (s : State) (x : RegIdx) (a : Byte) : (s.setReg x a).drawFlag = s.drawFlag := rfl
@[simp] theorem State.setReg_hist (s : State) (x : RegIdx) (a : Byte) : (s.setReg x a).hist = s.hist := rfl
@[simp] theorem State.setReg_events (s : State) (x : RegIdx) (a : Byte) : (s.setReg x a).events = s.events := rfl
@[simp] theorem State.setReg_cfg (s : State) (x : RegIdx) (a : Byte) : (s.setReg x a).cfg = s.cfg := rfl
@[simp] theorem State.setReg_ports (s : State) (x : RegIdx) (a : Byte) : (s.setReg x a).ports = s.ports := rfl
@[simp] theorem State.setReg_keyWaiting (s : State) (x : RegIdx) (a : Byte) : (s.setReg x a).keyWaiting = s.keyWaiting := rfl

/-! ### `State.setPc` -/

@[simp] theorem State.setPc_v (s : State) (a : Word) : (s.setPc a).v = s.v := rfl
@[simp] theorem State.setPc_I (s : State) (a : Word) : (s.setPc a).I = s.I := rfl
@[simp] theorem State.setPc_pc (s : State) (a : Word) : (s.setPc a).pc = a := rfl
@[simp] theorem State.setPc_sp (s : State) (a : Word) : (s.setPc a).sp = s.sp := rfl
@[simp] theorem State.setPc_stack (s : State) (a : Word) : (s.setPc a).stack = s.stack := rfl
@[simp] theorem State.setPc_dt (s : State) (a : Word) : (s.setPc a).dt = s.dt := rfl
@[simp] theorem State.setPc_st (s : State) (a : Word) : (s.setPc a).st = s.st := rfl
@[simp] theorem State.setPc_mem (s : State) (a : Word) : (s.setPc a).mem = s.mem := rfl
@[simp] theorem State.setPc_fb (s : State) (a : Word) : (s.setPc a).fb = s.fb := rfl
@[simp] theorem State.setPc_romlength (s : State) (a : Word) : (s.setPc a).romlength = s.romlength := rfl
@[simp] theorem State.setPc_run (s : State) (a : Word) : (s.setPc a).run = s.run := rfl
@[simp] theorem State.setPc_tickCtr (s : State) (a : Word) : (s.setPc a).tickCtr = s.tickCtr := rfl
@[simp] theorem State.setPc_drawFlag (s : State) (a : Word) : (s.setPc a).drawFlag = s.drawFlag := rfl
@[simp] theorem State.setPc_hist (s : State) (a : Word) : (s.setPc a).hist = s.hist := rfl
@[simp] theorem State.setPc_events (s : State) (a : Word) : (s.setPc a).events = s.events := rfl
@[simp] theorem State.setPc_cfg (s : State) (a : Word) : (s.setPc a).cfg = s.cfg := rfl
@[simp] theorem State.setPc_ports (s : State) (a : Word) : (s.setPc a).ports = s.ports := rfl
@[simp] theorem State.setPc_keyWaiting (s : State) (a : Word) : (s.setPc a).keyWaiting = s.keyWaiting := rfl

/-! ### `State.advance` -/

@[simp] theorem State.advance_v (s : State) : (s.advance).v = s.v := rfl
@[simp] theorem State.advance_I (s : State) : (s.advance).I = s.I := rfl
@[simp] theorem State.advance_pc (s : State) : (s.advance).pc = s.pc + 2#16 := rfl
@[simp] theorem State.advance_sp (s : State) : (s.advance).sp = s.sp := rfl
@[simp] theorem State.advance_stack (s : State) : (s.advance).stack = s.stack := rfl
@[simp] theorem State.advance_dt (s : State) : (s.advance).dt = s.dt := rfl
@[simp] theorem State.advance_st (s : State) : (s.advance).st = s.st := rfl
@[simp] theorem State.advance_mem (s : State) : (s.advance).mem = s.mem := rfl
@[simp] theorem State.advance_fb (s : State) : (s.advance).fb = s.fb := rfl
@[simp] theorem State.advance_romlength (s : State) : (s.advance).romlength = s.romlength := rfl
@[simp] theorem State.advance_run (s : State) : (s.advance).run = s.run := rfl
@[simp] theorem State.advance_tickCtr (s : State) : (s.advance).tickCtr = s.tickCtr := rfl
@[simp] theorem State.advance_drawFlag (s : State) : (s.advance).drawFlag = s.drawFlag := rfl
@[simp] theorem State.advance_hist (s : State) : (s.advance).hist = s.hist := rfl
@[simp] theorem State.advance_events (s : State) : (s.advance).events = s.events := rfl
@[simp] theorem State.advance_cfg (s : State) : (s.advance).cfg = s.cfg := rfl
@[simp] theorem State.advance_ports (s : State) : (s.advance).ports = s.ports := rfl
@[simp] theorem State.advance_keyWaiting (s : State) : (s.advance).keyWaiting = s.keyWaiting := rfl

/-! ### `State.skipIf` -/

@[simp] theorem State.skipIf_v (s : State) (b : Bool) : (s.skipIf b).v = s.v := rfl
@[simp] theorem State.skipIf_I (s : State) (b : Bool) : (s.skipIf b).I = s.I := rfl
@[simp] theorem State.skipIf_pc (s : State) (b : Bool) : (s.skipIf b).pc = if b then s.pc + 4#16 else s.pc + 2#16 := rfl
@[simp] theorem State.skipIf_sp (s : State) (b : Bool) : (s.skipIf b).sp = s.sp := rfl
@[simp] theorem State.skipIf_stack (s : State) (b : Bool) : (s.skipIf b).stack = s.stack := rfl
@[simp] theorem State.skipIf_dt (s : State) (b : Bool) : (s.skipIf b).dt = s.dt := rfl
@[simp] theorem State.skipIf_st (s : State) (b : Bool) : (s.skipIf b).st = s.st := rfl
@[simp] theorem State.skipIf_mem (s : State) (b : Bool) : (s.skipIf b).mem = s.mem := rfl
@[simp] theorem State.skipIf_fb (s : State) (b : Bool) : (s.skipIf b).fb = s.fb := rfl
@[simp] theorem State.skipIf_romlength (s : State) (b : Bool) : (s.skipIf b).romlength = s.romlength := rfl
@[simp] theorem State.skipIf_run (s : State) (b : Bool) : (s.skipIf b).run = s.run := rfl
@[simp] theorem State.skipIf_tickCtr (s : State) (b : Bool) : (s.skipIf b).tickCtr = s.tickCtr := rfl
@[simp] theorem State.skipIf_drawFlag (s : State) (b : Bool) : (s.skipIf b).drawFlag = s.drawFlag := rfl
@[simp] theorem State.skipIf_hist (s : State) (b : Bool) : (s.skipIf b).hist = s.hist := rfl
@[simp] theorem State.skipIf_events (s : State) (b : Bool) : (s.skipIf b).events = s.events := rfl
@[simp] theorem State.skipIf_cfg (s : State) (b : Bool) : (s.skipIf b).cfg = s.cfg := rfl
@[simp] theorem State.skipIf_ports (s : State) (b : Bool) : (s.skipIf b).ports = s.ports := rfl
@[simp] theorem State.skipIf_keyWaiting (s : State) (b : Bool) : (s.skipIf b).keyWaiting = s.keyWaiting := rfl

/-! ### `State.emit` -/

@[simp] theorem State.emit_v (s : State) (e : Event) : (s.emit e).v = s.v := rfl
@[simp] theorem State.emit_I (s : State) (e : Event) : (s.emit e).I = s.I := rfl
@[simp] theorem State.emit_pc (s : State) (e : Event) : (s.emit e).pc = s.pc := rfl
@[simp] theorem State.emit_sp (s : State) (e : Event) : (s.emit e).sp = s.sp := rfl
@[simp] theorem State.emit_stack (s : State) (e : Event) : (s.emit e).stack = s.stack := rfl
@[simp] theorem State.emit_dt (s : State) (e : Event) : (s.emit e).dt = s.dt := rfl
@[simp] theorem State.emit_st (s : State) (e : Event) : (s.emit e).st = s.st := rfl
@[simp] theorem State.emit_mem (s : State) (e : Event) : (s.emit e).mem = s.mem := rfl
@[simp] theorem State.emit_fb (s : State) (e : Event) : (s.emit e).fb = s.fb := rfl
@[simp] theorem State.emit_romlength (s : State) (e : Event) : (s.emit e).romlength = s.romlength := rfl
@[simp] theorem State.emit_run (s : State) (e : Event) : (s.emit e).run = s.run := rfl
@[simp] theorem State.emit_tickCtr (s : State) (e : Event) : (s.emit e).tickCtr = s.tickCtr := rfl
@[simp] theorem State.emit_drawFlag (s : State) (e : Event) : (s.emit e).drawFlag = s.drawFlag := rfl
@[simp] theorem State.emit_hist (s : State) (e : Event) : (s.emit e).hist = s.hist := rfl
@[simp] theorem State.emit_events (s : State) (e : Event) : (s.emit e).events = s.events ++ [e] := rfl
@[simp] theorem State.emit_cfg (s : State) (e : Event) : (s.emit e).cfg = s.cfg := rfl
@[simp] theorem State.emit_ports (s : State) (e : Event) : (s.emit e).ports = s.ports := rfl
@[simp] theorem State.emit_keyWaiting (s : State) (e : Event) : (s.emit e).keyWaiting = s.keyWaiting := rfl

/-! ### `State.push` -/

@[simp] theorem State.push_v (s : State) (a : Word) : (s.push a).v = s.v := rfl
@[simp] theorem State.push_I (s : State) (a : Word) : (s.push a).I = s.I := rfl
@[simp] theorem State.push_pc (s : State) (a : Word) : (s.push a).pc = s.pc := rfl
@[simp] theorem State.push_sp (s : State) (a : Word) : (s.push a).sp = s.sp + 1 := rfl
@[simp] theorem State.push_stack (s : State) (a : Word) : (s.push a).stack = s.stack.setIfInBounds s.sp a := rfl
@[simp] theorem State.push_dt (s : State) (a : Word) : (s.push a).dt = s.dt := rfl
@[simp] theorem State.push_st (s : State) (a : Word) : (s.push a).st = s.st := rfl
@[simp] theorem State.push_mem (s : State) (a : Word) : (s.push a).mem = s.mem := rfl
@[simp] theorem State.push_fb (s : State) (a : Word) : (s.push a).fb = s.fb := rfl
@[simp] theorem State.push_romlength (s : State) (a : Word) : (s.push a).romlength = s.romlength := rfl
@[simp] theorem State.push_run (s : State) (a : Word) : (s.push a).run = s.run := rfl
@[simp] theorem State.push_tickCtr (s : State) (a : Word) : (s.push a).tickCtr = s.tickCtr := rfl
@[simp] theorem State.push_drawFlag (s : State) (a : Word) : (s.push a).drawFlag = s.drawFlag := rfl
@[simp] theorem State.push_hist (s : State) (a : Word) : (s.push a).hist = s.hist := rfl
@[simp] theorem State.push_events (s : State) (a : Word) : (s.push a).events = s.events := rfl
@[simp] theorem State.push_cfg (s : State) (a : Word) : (s.push a).cfg = s.cfg := rfl
@[simp] theorem State.push_ports (s : State) (a : Word) : (s.push a).ports = s.ports := rfl
@[simp] theorem State.push_keyWaiting (s : State) (a : Word) : (s.push a).keyWaiting = s.keyWaiting := rfl

/-! ### `State.pop` -/

@[simp] theorem State.pop_v (s : State) : (s.pop).v = s.v := rfl
@[simp] theorem State.pop_I (s : State) : (s.pop).I = s.I := rfl
@[simp] theorem State.pop_pc (s : State) : (s.pop).pc = s.pc := rfl
@[simp] theorem State.pop_sp (s : State) : (s.pop).sp = s.sp - 1 := rfl
@[simp] theorem State.pop_stack (s : State) : (s.pop).stack = s.stack := rfl
@[simp] theorem State.pop_dt (s : State) : (s.pop).dt = s.dt := rfl
@[simp] theorem State.pop_st (s : State) : (s.pop).st = s.st := rfl
@[simp] theorem State.pop_mem (s : State) : (s.pop).mem = s.mem := rfl
@[simp] theorem State.pop_fb (s : State) : (s.pop).fb = s.fb := rfl
@[simp] theorem State.pop_romlength (s : State) : (s.pop).romlength = s.romlength := rfl
@[simp] theorem State.pop_run (s : State) : (s.pop).run = s.run := rfl
@[simp] theorem State.pop_tickCtr (s : State) : (s.pop).tickCtr = s.tickCtr := rfl
@[simp] theorem State.pop_drawFlag (s : State) : (s.pop).drawFlag = s.drawFlag := rfl
@[simp] theorem State.pop_hist (s : State) : (s.pop).hist = s.hist := rfl
@[simp] theorem State.pop_events (s : State) : (s.pop).events = s.events := rfl
@[simp] theorem State.pop_cfg (s : State) : (s.pop).cfg = s.cfg := rfl
@[simp] theorem State.pop_ports (s : State) : (s.pop).ports = s.ports := rfl
@[simp] theorem State.pop_keyWaiting (s : State) : (s.pop).keyWaiting = s.keyWaiting := rfl

/-! ### `State.setResultAndFlag` -/

@[simp] theorem State.setResultAndFlag_v (s : State) (x : RegIdx) (a : Byte) (b : Bool) : (s.setResultAndFlag x a b).v = (s.v.set x.toNat a x.isLt).set 15 (flagByte b) := rfl
@[simp] theorem State.setResultAndFlag_I (s : State) (x : RegIdx) (a : Byte) (b : Bool) : (s.setResultAndFlag x a b).I = s.I := rfl
@[simp] theorem State.setResultAndFlag_pc (s : State) (x : RegIdx) (a : Byte) (b : Bool) : (s.setResultAndFlag x a b).pc = s.pc := rfl
@[simp] theorem State.setResultAndFlag_sp (s : State) (x : RegIdx) (a : Byte) (b : Bool) : (s.setResultAndFlag x a b).sp = s.sp := rfl
@[simp] theorem State.setResultAndFlag_stack (s : State) (x : RegIdx) (a : Byte) (b : Bool) : (s.setResultAndFlag x a b).stack = s.stack := rfl
@[simp] theorem State.setResultAndFlag_dt (s : State) (x : RegIdx) (a : Byte) (b : Bool) : (s.setResultAndFlag x a b).dt = s.dt := rfl
@[simp] theorem State.setResultAndFlag_st (s : State) (x : RegIdx) (a : Byte) (b : Bool) : (s.setResultAndFlag x a b).st = s.st := rfl
@[simp] theorem State.setResultAndFlag_mem (s : State) (x : RegIdx) (a : Byte) (b : Bool) : (s.setResultAndFlag x a b).mem = s.mem := rfl
@[simp] theorem State.setResultAndFlag_fb (s : State) (x : RegIdx) (a : Byte) (b : Bool) : (s.setResultAndFlag x a b).fb = s.fb := rfl
@[simp] theorem State.setResultAndFlag_romlength (s : State) (x : RegIdx) (a : Byte) (b : Bool) : (s.setResultAndFlag x a b).romlength = s.romlength := rfl
@[simp] theorem State.setResultAndFlag_run (s : State) (x : RegIdx) (a : Byte) (b : Bool) : (s.setResultAndFlag x a b).run = s.run := rfl
@[simp] theorem State.setResultAndFlag_tickCtr (s : State) (x : RegIdx) (a : Byte) (b : Bool) : (s.setResultAndFlag x a b).tickCtr = s.tickCtr := rfl
@[simp] theorem State.setResultAndFlag_drawFlag (s : State) (x : RegIdx) (a : Byte) (b : Bool) : (s.setResultAndFlag x a b).drawFlag = s.drawFlag := rfl
@[simp] theorem State.setResultAndFlag_hist (s : State) (x : RegIdx) (a : Byte) (b : Bool) : (s.setResultAndFlag x a b).hist = s.hist := rfl
@[simp] theorem State.setResultAndFlag_events (s : State) (x : RegIdx) (a : Byte) (b : Bool) : (s.setResultAndFlag x a b).events = s.events := rfl
@[simp] theorem State.setResultAndFlag_cfg (s : State) (x : RegIdx) (a : Byte) (b : Bool) : (s.setResultAndFlag x a b).cfg = s.cfg := rfl
@[simp] theorem State.setResultAndFlag_ports (s : State) (x : RegIdx) (a : Byte) (b : Bool) : (s.setResultAndFlag x a b).ports = s.ports := rfl
@[simp] theorem State.setResultAndFlag_keyWaiting (s : State) (x : RegIdx) (a : Byte) (b : Bool) : (s.setResultAndFlag x a b).keyWaiting = s.keyWaiting := rfl

/-! ### `State.storeAtIndex` -/

@[simp] theorem State.storeAtIndex_v (s : State) (bs : List Byte) : (s.storeAtIndex bs).v = s.v := rfl
@[simp] theorem State.storeAtIndex_I (s : State) (bs : List Byte) : (s.storeAtIndex bs).I = s.I := rfl
@[simp] theorem State.storeAtIndex_pc (s : State) (bs : List Byte) : (s.storeAtIndex bs).pc = s.pc + 2#16 := rfl
@[simp] theorem State.storeAtIndex_sp (s : State) (bs : List Byte) : (s.storeAtIndex bs).sp = s.sp := rfl
@[simp] theorem State.storeAtIndex_stack (s : State) (bs : List Byte) : (s.storeAtIndex bs).stack = s.stack := rfl
@[simp] theorem State.storeAtIndex_dt (s : State) (bs : List Byte) : (s.storeAtIndex bs).dt = s.dt := rfl
@[simp] theorem State.storeAtIndex_st (s : State) (bs : List Byte) : (s.storeAtIndex bs).st = s.st := rfl
@[simp] theorem State.storeAtIndex_mem (s : State) (bs : List Byte) : (s.storeAtIndex bs).mem = s.mem.writeBytes (effectiveAddress s 0) bs := rfl
@[simp] theorem State.storeAtIndex_fb (s : State) (bs : List Byte) : (s.storeAtIndex bs).fb = s.fb := rfl
@[simp] theorem State.storeAtIndex_romlength (s : State) (bs : List Byte) : (s.storeAtIndex bs).romlength = s.romlength := rfl
@[simp] theorem State.storeAtIndex_run (s : State) (bs : List Byte) : (s.storeAtIndex bs).run = s.run := rfl
@[simp] theorem State.storeAtIndex_tickCtr (s : State) (bs : List Byte) : (s.storeAtIndex bs).tickCtr = s.tickCtr := rfl
@[simp] theorem State.storeAtIndex_drawFlag (s : State) (bs : List Byte) : (s.storeAtIndex bs).drawFlag = s.drawFlag := rfl
@[simp] theorem State.storeAtIndex_hist (s : State) (bs : List Byte) : (s.storeAtIndex bs).hist = s.hist := rfl
@[simp] theorem State.storeAtIndex_events (s : State) (bs : List Byte) : (s.storeAtIndex bs).events = s.events := rfl
@[simp] theorem State.storeAtIndex_cfg (s : State) (bs : List Byte) : (s.storeAtIndex bs).cfg = s.cfg := rfl
@[simp] theorem State.storeAtIndex_ports (s : State) (bs : List Byte) : (s.storeAtIndex bs).ports = s.ports := rfl
@[simp] theorem State.storeAtIndex_keyWaiting (s : State) (bs : List Byte) : (s.storeAtIndex bs).keyWaiting = s.keyWaiting := rfl

/-! ### `State.beginTick` -/

@[simp] theorem State.beginTick_v (s : State) : (s.beginTick).v = s.v := rfl
@[simp] theorem State.beginTick_I (s : State) : (s.beginTick).I = s.I := rfl
@[simp] theorem State.beginTick_pc (s : State) : (s.beginTick).pc = s.pc := rfl
@[simp] theorem State.beginTick_sp (s : State) : (s.beginTick).sp = s.sp := rfl
@[simp] theorem State.beginTick_stack (s : State) : (s.beginTick).stack = s.stack := rfl
@[simp] theorem State.beginTick_dt (s : State) : (s.beginTick).dt = s.dt := rfl
@[simp] theorem State.beginTick_st (s : State) : (s.beginTick).st = s.st := rfl
@[simp] theorem State.beginTick_mem (s : State) : (s.beginTick).mem = s.mem := rfl
@[simp] theorem State.beginTick_fb (s : State) : (s.beginTick).fb = s.fb := rfl
@[simp] theorem State.beginTick_romlength (s : State) : (s.beginTick).romlength = s.romlength := rfl
@[simp] theorem State.beginTick_run (s : State) : (s.beginTick).run = s.run := rfl
@[simp] theorem State.beginTick_tickCtr (s : State) : (s.beginTick).tickCtr = s.tickCtr := rfl
@[simp] theorem State.beginTick_drawFlag (s : State) : (s.beginTick).drawFlag = false := rfl
@[simp] theorem State.beginTick_hist (s : State) : (s.beginTick).hist = s.hist := rfl
@[simp] theorem State.beginTick_events (s : State) : (s.beginTick).events = s.events := rfl
@[simp] theorem State.beginTick_cfg (s : State) : (s.beginTick).cfg = s.cfg := rfl
@[simp] theorem State.beginTick_ports (s : State) : (s.beginTick).ports = s.ports := rfl
@[simp] theorem State.beginTick_keyWaiting (s : State) : (s.beginTick).keyWaiting = false := rfl

/-! ### `State.halt` -/

@[simp] theorem State.halt_v (s : State) : (s.halt).v = s.v := rfl
@[simp] theorem State.halt_I (s : State) : (s.halt).I = s.I := rfl
@[simp] theorem State.halt_pc (s : State) : (s.halt).pc = s.pc := rfl
@[simp] theorem State.halt_sp (s : State) : (s.halt).sp = s.sp := rfl
@[simp] theorem State.halt_stack (s : State) : (s.halt).stack = s.stack := rfl
@[simp] theorem State.halt_dt (s : State) : (s.halt).dt = s.dt := rfl
@[simp] theorem State.halt_st (s : State) : (s.halt).st = s.st := rfl
@[simp] theorem State.halt_mem (s : State) : (s.halt).mem = s.mem := rfl
@[simp] theorem State.halt_fb (s : State) : (s.halt).fb = s.fb := rfl
@[simp] theorem State.halt_romlength (s : State) : (s.halt).romlength = s.romlength := rfl
@[simp] theorem State.halt_run (s : State) : (s.halt).run = .halted := rfl
@[simp] theorem State.halt_tickCtr (s : State) : (s.halt).tickCtr = s.tickCtr := rfl
@[simp] theorem State.halt_drawFlag (s : State) : (s.halt).drawFlag = s.drawFlag := rfl
@[simp] theorem State.halt_hist (s : State) : (s.halt).hist = s.hist := rfl
@[simp] theorem State.halt_events (s : State) : (s.halt).events = s.events := rfl
@[simp] theorem State.halt_cfg (s : State) : (s.halt).cfg = s.cfg := rfl
@[simp] theorem State.halt_ports (s : State) : (s.halt).ports = s.ports := rfl
@[simp] theorem State.halt_keyWaiting (s : State) : (s.halt).keyWaiting = s.keyWaiting := rfl

/-! ### `raiseFatal` -/

@[simp] theorem raiseFatal_v (s : State) (c : Cause) (w : Option Word) : (raiseFatal c w s).v = s.v := rfl
@[simp] theorem raiseFatal_I (s : State) (c : Cause) (w : Option Word) : (raiseFatal c w s).I = s.I := rfl
@[simp] theorem raiseFatal_pc (s : State) (c : Cause) (w : Option Word) : (raiseFatal c w s).pc = s.pc := rfl
@[simp] theorem raiseFatal_sp (s : State) (c : Cause) (w : Option Word) : (raiseFatal c w s).sp = s.sp := rfl
@[simp] theorem raiseFatal_stack (s : State) (c : Cause) (w : Option Word) : (raiseFatal c w s).stack = s.stack := rfl
@[simp] theorem raiseFatal_dt (s : State) (c : Cause) (w : Option Word) : (raiseFatal c w s).dt = s.dt := rfl
@[simp] theorem raiseFatal_st (s : State) (c : Cause) (w : Option Word) : (raiseFatal c w s).st = s.st := rfl
@[simp] theorem raiseFatal_mem (s : State) (c : Cause) (w : Option Word) : (raiseFatal c w s).mem = s.mem := rfl
@[simp] theorem raiseFatal_fb (s : State) (c : Cause) (w : Option Word) : (raiseFatal c w s).fb = s.fb := rfl
@[simp] theorem raiseFatal_romlength (s : State) (c : Cause) (w : Option Word) : (raiseFatal c w s).romlength = s.romlength := rfl
@[simp] theorem raiseFatal_run (s : State) (c : Cause) (w : Option Word) : (raiseFatal c w s).run = .aborted c := rfl
@[simp] theorem raiseFatal_tickCtr (s : State) (c : Cause) (w : Option Word) : (raiseFatal c w s).tickCtr = s.tickCtr := rfl
@[simp] theorem raiseFatal_drawFlag (s : State) (c : Cause) (w : Option Word) : (raiseFatal c w s).drawFlag = s.drawFlag := rfl
@[simp] theorem raiseFatal_hist (s : State) (c : Cause) (w : Option Word) : (raiseFatal c w s).hist = s.hist := rfl
@[simp] theorem raiseFatal_events (s : State) (c : Cause) (w : Option Word) : (raiseFatal c w s).events = s.events ++ [.diagFatal c s.pc w] := rfl
@[simp] theorem raiseFatal_cfg (s : State) (c : Cause) (w : Option Word) : (raiseFatal c w s).cfg = s.cfg := rfl
@[simp] theorem raiseFatal_ports (s : State) (c : Cause) (w : Option Word) : (raiseFatal c w s).ports = s.ports := rfl
@[simp] theorem raiseFatal_keyWaiting (s : State) (c : Cause) (w : Option Word) : (raiseFatal c w s).keyWaiting = s.keyWaiting := rfl

/-! ### `State.endTick`: the fields no step of the run loop after the instruction writes -/

@[simp] theorem State.endTick_v (s : State) : s.endTick.v = s.v := rfl
@[simp] theorem State.endTick_I (s : State) : s.endTick.I = s.I := rfl
@[simp] theorem State.endTick_pc (s : State) : s.endTick.pc = s.pc := rfl
@[simp] theorem State.endTick_sp (s : State) : s.endTick.sp = s.sp := rfl
@[simp] theorem State.endTick_stack (s : State) : s.endTick.stack = s.stack := rfl
@[simp] theorem State.endTick_mem (s : State) : s.endTick.mem = s.mem := rfl
@[simp] theorem State.endTick_fb (s : State) : s.endTick.fb = s.fb := rfl
@[simp] theorem State.endTick_romlength (s : State) : s.endTick.romlength = s.romlength := rfl
@[simp] theorem State.endTick_drawFlag (s : State) : s.endTick.drawFlag = s.drawFlag := rfl
@[simp] theorem State.endTick_cfg (s : State) : s.endTick.cfg = s.cfg := rfl
@[simp] theorem State.endTick_keyWaiting (s : State) : s.endTick.keyWaiting = s.keyWaiting := rfl

/-! ### Registers -/

/-- A register read after a register write. -/
@[simp] theorem State.reg_setReg (s : State) (x y : RegIdx) (a : Byte) :
    (s.setReg x a).reg y = if y = x then a else s.reg y := by
  simp only [State.reg, State.setReg, Vector.getElem_set, BitVec.toNat_inj]
  simp only [eq_comm]

/-- Two states with the same register file read alike. -/
theorem State.reg_congr {s t : State} (h : t.v = s.v) (x : RegIdx) : t.reg x = s.reg x := by
  simp [State.reg, h]

/-- A register read after a result and a flag are written: the flag is written last (R74). -/
@[simp] theorem State.reg_setResultAndFlag (s : State) (x y : RegIdx) (a : Byte) (b : Bool) :
    (s.setResultAndFlag x a b).reg y = if y = regF then flagByte b else if y = x then a else s.reg y := by
  simp [State.setResultAndFlag]

@[simp] theorem State.reg_setPc (s : State) (x : RegIdx) (a : Word) : (s.setPc a).reg x = s.reg x := rfl
@[simp] theorem State.reg_advance (s : State) (x : RegIdx) : (s.advance).reg x = s.reg x := rfl
@[simp] theorem State.reg_skipIf (s : State) (x : RegIdx) (b : Bool) : (s.skipIf b).reg x = s.reg x := rfl
@[simp] theorem State.reg_emit (s : State) (x : RegIdx) (e : Event) : (s.emit e).reg x = s.reg x := rfl
@[simp] theorem State.reg_push (s : State) (x : RegIdx) (a : Word) : (s.push a).reg x = s.reg x := rfl
@[simp] theorem State.reg_pop (s : State) (x : RegIdx) : (s.pop).reg x = s.reg x := rfl
@[simp] theorem State.reg_storeAtIndex (s : State) (x : RegIdx) (bs : List Byte) : (s.storeAtIndex bs).reg x = s.reg x := rfl
@[simp] theorem State.reg_beginTick (s : State) (x : RegIdx) : (s.beginTick).reg x = s.reg x := rfl
@[simp] theorem State.reg_halt (s : State) (x : RegIdx) : (s.halt).reg x = s.reg x := rfl
@[simp] theorem reg_raiseFatal (s : State) (x : RegIdx) (c : Cause) (w : Option Word) : (raiseFatal c w s).reg x = s.reg x := rfl
@[simp] theorem State.reg_endTick (s : State) (x : RegIdx) : s.endTick.reg x = s.reg x := rfl

end Sys2Proof.Machine
end

