-- ==== Sys2Proof/Laws/Ops.lean ====
section
/-! SUPPORT. One lemma for each shared operation, saying once all it can do. -/

namespace Sys2Proof.Machine

/-! ### Bounds (R33) -/

/-- STACK_LIMIT is at most the number of slots. -/
theorem StackLimit.toNat_le (l : StackLimit) : l.toNat ≤ 16 := by cases l <;> decide

theorem firstOutOfBounds_eq_none (base count : Nat) :
    firstOutOfBounds base count = none ↔ base + count ≤ 4096 ∨ count = 0 := by
  simp only [firstOutOfBounds, memSize]
  split <;> simp_all

theorem firstOutOfBounds_eq_some (base count a : Nat) :
    firstOutOfBounds base count = some a ↔ 4096 < base + count ∧ 0 < count ∧ a = max base 4096 := by
  simp only [firstOutOfBounds, memSize]
  split
  · simp only [reduceCtorEq, false_iff]; omega
  · rw [Option.some.injEq]; omega

/-- An access inside memory runs the body. -/
theorem withBounds_of_le {base count : Nat} (h : base + count ≤ 4096 ∨ count = 0) (w : Option Word)
    (body : State → State) (s : State) : withBounds base count w body s = body s := by
  rw [withBounds, (firstOutOfBounds_eq_none base count).2 h]

/-- An access that leaves memory raises MemoryBounds for the first address that does. -/
theorem withBounds_of_lt {base count : Nat} (h : 4096 < base + count) (h0 : 0 < count) (w : Option Word)
    (body : State → State) (s : State) :
    withBounds base count w body s = raiseFatal (.memoryBounds (max base 4096)) w s := by
  rw [withBounds, (firstOutOfBounds_eq_some base count _).2 ⟨h, h0, rfl⟩]

/-! ### Blocks of registers (R93, R94) -/

theorem State.length_regsUpTo (s : State) (x : RegIdx) : (s.regsUpTo x).length = x.toNat + 1 := by
  have := x.isLt
  simp only [State.regsUpTo, List.length_take, Vector.length_toList]
  omega

theorem State.getD_regsUpTo (s : State) {x r : RegIdx} (h : r.toNat ≤ x.toNat) (d : Byte) :
    (s.regsUpTo x).getD r.toNat d = s.reg r := by
  rw [List.getD_eq_getElem _ _ (by rw [State.length_regsUpTo]; omega)]
  simp [State.regsUpTo, State.reg]

theorem getElem_loadRegisters (m : Memory) (base n : Nat) (v : Vector Byte 16) (k : Nat) (hk : k < 16) :
    (loadRegisters m base n v)[k] = if k < n then m.read (base + k) else v[k] := by
  induction n with
  | zero => simp [loadRegisters]
  | succ n ih =>
    simp only [loadRegisters, Vector.getElem_setIfInBounds, ih]
    by_cases h : n = k
    · subst h; simp
    · by_cases h' : k < n
      · simp [h, h', Nat.lt_succ_of_lt h']
      · have : ¬ k < n + 1 := by omega
        simp [h, h', this]

/-! ### The stack (R15) -/

theorem State.topOfStack_eq (s : State) (k : Nat) (hk : k < 16) (h : s.sp = k + 1) : s.topOfStack = s.stack[k] := by
  simp [State.topOfStack, h, hk]

/-! ### The input ports -/

@[simp] theorem State.drawRandom_v (s : State) : s.drawRandom.2.v = s.v := rfl
@[simp] theorem State.drawRandom_I (s : State) : s.drawRandom.2.I = s.I := rfl
@[simp] theorem State.drawRandom_pc (s : State) : s.drawRandom.2.pc = s.pc := rfl
@[simp] theorem State.drawRandom_sp (s : State) : s.drawRandom.2.sp = s.sp := rfl
@[simp] theorem State.drawRandom_stack (s : State) : s.drawRandom.2.stack = s.stack := rfl
@[simp] theorem State.drawRandom_dt (s : State) : s.drawRandom.2.dt = s.dt := rfl
@[simp] theorem State.drawRandom_st (s : State) : s.drawRandom.2.st = s.st := rfl
@[simp] theorem State.drawRandom_mem (s : State) : s.drawRandom.2.mem = s.mem := rfl
@[simp] theorem State.drawRandom_fb (s : State) : s.drawRandom.2.fb = s.fb := rfl
@[simp] theorem State.drawRandom_romlength (s : State) : s.drawRandom.2.romlength = s.romlength := rfl
@[simp] theorem State.drawRandom_run (s : State) : s.drawRandom.2.run = s.run := rfl
@[simp] theorem State.drawRandom_tickCtr (s : State) : s.drawRandom.2.tickCtr = s.tickCtr := rfl
@[simp] theorem State.drawRandom_drawFlag (s : State) : s.drawRandom.2.drawFlag = s.drawFlag := rfl
@[simp] theorem State.drawRandom_hist (s : State) : s.drawRandom.2.hist = s.hist := rfl
@[simp] theorem State.drawRandom_events (s : State) : s.drawRandom.2.events = s.events := rfl
@[simp] theorem State.drawRandom_cfg (s : State) : s.drawRandom.2.cfg = s.cfg := rfl
@[simp] theorem State.drawRandom_keyWaiting (s : State) : s.drawRandom.2.keyWaiting = s.keyWaiting := rfl
@[simp] theorem State.reg_drawRandom (s : State) (x : RegIdx) : s.drawRandom.2.reg x = s.reg x := rfl

@[simp] theorem State.drawKeyDown_v (s : State) : s.drawKeyDown.2.v = s.v := rfl
@[simp] theorem State.drawKeyDown_I (s : State) : s.drawKeyDown.2.I = s.I := rfl
@[simp] theorem State.drawKeyDown_pc (s : State) : s.drawKeyDown.2.pc = s.pc := rfl
@[simp] theorem State.drawKeyDown_sp (s : State) : s.drawKeyDown.2.sp = s.sp := rfl
@[simp] theorem State.drawKeyDown_stack (s : State) : s.drawKeyDown.2.stack = s.stack := rfl
@[simp] theorem State.drawKeyDown_dt (s : State) : s.drawKeyDown.2.dt = s.dt := rfl
@[simp] theorem State.drawKeyDown_st (s : State) : s.drawKeyDown.2.st = s.st := rfl
@[simp] theorem State.drawKeyDown_mem (s : State) : s.drawKeyDown.2.mem = s.mem := rfl
@[simp] theorem State.drawKeyDown_fb (s : State) : s.drawKeyDown.2.fb = s.fb := rfl
@[simp] theorem State.drawKeyDown_romlength (s : State) : s.drawKeyDown.2.romlength = s.romlength := rfl
@[simp] theorem State.drawKeyDown_run (s : State) : s.drawKeyDown.2.run = s.run := rfl
@[simp] theorem State.drawKeyDown_tickCtr (s : State) : s.drawKeyDown.2.tickCtr = s.tickCtr := rfl
@[simp] theorem State.drawKeyDown_drawFlag (s : State) : s.drawKeyDown.2.drawFlag = s.drawFlag := rfl
@[simp] theorem State.drawKeyDown_hist (s : State) : s.drawKeyDown.2.hist = s.hist := rfl
@[simp] theorem State.drawKeyDown_events (s : State) : s.drawKeyDown.2.events = s.events := rfl
@[simp] theorem State.drawKeyDown_cfg (s : State) : s.drawKeyDown.2.cfg = s.cfg := rfl
@[simp] theorem State.drawKeyDown_keyWaiting (s : State) : s.drawKeyDown.2.keyWaiting = s.keyWaiting := rfl
@[simp] theorem State.reg_drawKeyDown (s : State) (x : RegIdx) : s.drawKeyDown.2.reg x = s.reg x := rfl

@[simp] theorem State.drawKeyWait_v (s : State) : s.drawKeyWait.2.v = s.v := rfl
@[simp] theorem State.drawKeyWait_I (s : State) : s.drawKeyWait.2.I = s.I := rfl
@[simp] theorem State.drawKeyWait_pc (s : State) : s.drawKeyWait.2.pc = s.pc := rfl
@[simp] theorem State.drawKeyWait_sp (s : State) : s.drawKeyWait.2.sp = s.sp := rfl
@[simp] theorem State.drawKeyWait_stack (s : State) : s.drawKeyWait.2.stack = s.stack := rfl
@[simp] theorem State.drawKeyWait_dt (s : State) : s.drawKeyWait.2.dt = s.dt := rfl
@[simp] theorem State.drawKeyWait_st (s : State) : s.drawKeyWait.2.st = s.st := rfl
@[simp] theorem State.drawKeyWait_mem (s : State) : s.drawKeyWait.2.mem = s.mem := rfl
@[simp] theorem State.drawKeyWait_fb (s : State) : s.drawKeyWait.2.fb = s.fb := rfl
@[simp] theorem State.drawKeyWait_romlength (s : State) : s.drawKeyWait.2.romlength = s.romlength := rfl
@[simp] theorem State.drawKeyWait_run (s : State) : s.drawKeyWait.2.run = s.run := rfl
@[simp] theorem State.drawKeyWait_tickCtr (s : State) : s.drawKeyWait.2.tickCtr = s.tickCtr := rfl
@[simp] theorem State.drawKeyWait_drawFlag (s : State) : s.drawKeyWait.2.drawFlag = s.drawFlag := rfl
@[simp] theorem State.drawKeyWait_hist (s : State) : s.drawKeyWait.2.hist = s.hist := rfl
@[simp] theorem State.drawKeyWait_events (s : State) : s.drawKeyWait.2.events = s.events := rfl
@[simp] theorem State.drawKeyWait_cfg (s : State) : s.drawKeyWait.2.cfg = s.cfg := rfl
@[simp] theorem State.drawKeyWait_keyWaiting (s : State) : s.drawKeyWait.2.keyWaiting = s.keyWaiting := rfl
@[simp] theorem State.reg_drawKeyWait (s : State) (x : RegIdx) : s.drawKeyWait.2.reg x = s.reg x := rfl

@[simp] theorem State.drawPoll_v (s : State) : s.drawPoll.2.v = s.v := rfl
@[simp] theorem State.drawPoll_I (s : State) : s.drawPoll.2.I = s.I := rfl
@[simp] theorem State.drawPoll_pc (s : State) : s.drawPoll.2.pc = s.pc := rfl
@[simp] theorem State.drawPoll_sp (s : State) : s.drawPoll.2.sp = s.sp := rfl
@[simp] theorem State.drawPoll_stack (s : State) : s.drawPoll.2.stack = s.stack := rfl
@[simp] theorem State.drawPoll_dt (s : State) : s.drawPoll.2.dt = s.dt := rfl
@[simp] theorem State.drawPoll_st (s : State) : s.drawPoll.2.st = s.st := rfl
@[simp] theorem State.drawPoll_mem (s : State) : s.drawPoll.2.mem = s.mem := rfl
@[simp] theorem State.drawPoll_fb (s : State) : s.drawPoll.2.fb = s.fb := rfl
@[simp] theorem State.drawPoll_romlength (s : State) : s.drawPoll.2.romlength = s.romlength := rfl
@[simp] theorem State.drawPoll_run (s : State) : s.drawPoll.2.run = s.run := rfl
@[simp] theorem State.drawPoll_tickCtr (s : State) : s.drawPoll.2.tickCtr = s.tickCtr := rfl
@[simp] theorem State.drawPoll_drawFlag (s : State) : s.drawPoll.2.drawFlag = s.drawFlag := rfl
@[simp] theorem State.drawPoll_hist (s : State) : s.drawPoll.2.hist = s.hist := rfl
@[simp] theorem State.drawPoll_events (s : State) : s.drawPoll.2.events = s.events := rfl
@[simp] theorem State.drawPoll_cfg (s : State) : s.drawPoll.2.cfg = s.cfg := rfl
@[simp] theorem State.drawPoll_keyWaiting (s : State) : s.drawPoll.2.keyWaiting = s.keyWaiting := rfl
@[simp] theorem State.reg_drawPoll (s : State) (x : RegIdx) : s.drawPoll.2.reg x = s.reg x := rfl

/-- A free answer of the key-wait port is inside its contract: a key is 0 to 15. -/
theorem freeKeyWaitAnswer_key_lt {n : Nat} {key : Byte} {quit : Bool} (h : freeKeyWaitAnswer n = .answered key quit) :
    key.toNat < 16 := by
  unfold freeKeyWaitAnswer at h
  split at h
  · cases h
  · next k q _ =>
    cases h
    have := k.isLt
    rw [BitVec.toNat_setWidth]
    omega

/-! ### Framebuffer bytes (R20) -/

theorem Frame.byte_setByte (f : Frame) (r r' : Fin 32) (c c' : Fin 8) (x : Byte) :
    (f.setByte r c x).byte r' c' = if r' = r ∧ c' = c then x else f.byte r' c' := by
  obtain ⟨r, hr⟩ := r; obtain ⟨r', hr'⟩ := r'; obtain ⟨c, hc⟩ := c; obtain ⟨c', hc'⟩ := c'
  simp only [Frame.byte, Frame.setByte, Vector.getElem_set, Fin.mk.injEq]
  by_cases h : r = r'
  · subst h
    by_cases h' : c = c'
    · subst h'; simp
    · simp [h', Ne.symm h']
  · simp [h, Ne.symm h]

/-- Two frames with the same bytes are the same frame. -/
theorem Frame.ext_byte {f g : Frame} (h : ∀ r c, f.byte r c = g.byte r c) : f = g := by
  apply Vector.ext; intro r hr
  apply Vector.ext; intro c hc
  exact h ⟨r, hr⟩ ⟨c, hc⟩

theorem Frame.byte_blank (r : Fin 32) (c : Fin 8) : Frame.blank.byte r c = 0#8 := by
  simp [Frame.byte, Frame.blank]

theorem Frame.pixel_blank (px : Fin 64) (py : Fin 32) : Frame.blank.pixel px py = false := by
  simp [Frame.pixel, Frame.byte_blank]

/-- Two frames with the same pixels are the same frame. -/
theorem Frame.ext_pixel {f g : Frame} (h : ∀ px py, f.pixel px py = g.pixel px py) : f = g := by
  refine Frame.ext_byte fun r c => BitVec.eq_of_getLsbD_eq fun b hb => ?_
  have := c.isLt
  have h := h ⟨8 * c.val + (7 - b), by omega⟩ r
  have h1 : byteColumn ⟨8 * c.val + (7 - b), by omega⟩ = c := by
    apply Fin.ext; simp only [byteColumn]; omega
  have h2 : 7 - (8 * c.val + (7 - b)) % 8 = b := by omega
  simpa only [Frame.pixel, h1, h2] using h

end Sys2Proof.Machine
end

