-- ==== Sys2Proof/Laws/Draw.lean ====
section
/-! SUPPORT. One lemma for each operation of the sprite draw and of the compositor. -/

namespace Sys2Proof.Machine

/-! ### The origin policy (R79) -/

/-- A draw goes ahead exactly where no axis is out of range without wrapping, at the origin modulo the screen. -/
theorem originPolicy_eq_draw (xwrap ywrap : WrapPolicy) (x0 y0 : Byte) (cx : Fin 64) (cy : Fin 32) :
    originPolicy xwrap ywrap x0 y0 = .draw cx cy ↔
      (64 ≤ x0.toNat → xwrap = .wrap) ∧ (32 ≤ y0.toNat → ywrap = .wrap) ∧
      cx.val = x0.toNat % 64 ∧ cy.val = y0.toNat % 32 := by
  by_cases hx : 64 ≤ x0.toNat <;> by_cases hy : 32 ≤ y0.toNat <;> cases xwrap <;> cases ywrap <;>
    simp [originPolicy, hx, hy, Fin.ext_iff] <;> omega

/-- A draw is suppressed exactly where a clipping axis is out of range and no faulting one is. -/
theorem originPolicy_eq_suppressed (xwrap ywrap : WrapPolicy) (x0 y0 : Byte) :
    originPolicy xwrap ywrap x0 y0 = .suppressed ↔
      ((64 ≤ x0.toNat ∧ xwrap = .clip) ∨ (32 ≤ y0.toNat ∧ ywrap = .clip)) ∧
      ¬ (64 ≤ x0.toNat ∧ xwrap = .fault) ∧ ¬ (32 ≤ y0.toNat ∧ ywrap = .fault) := by
  by_cases hx : 64 ≤ x0.toNat <;> by_cases hy : 32 ≤ y0.toNat <;> cases xwrap <;> cases ywrap <;>
    simp [originPolicy, hx, hy]

/-! ### Bytes and rows (R80 to R82) -/

/-- A draw reads no more rows than its height. -/
theorem rowsDrawn_le (ywrap : WrapPolicy) (cy : Fin 32) (n : BitVec 4) : rowsDrawn ywrap cy n ≤ n.toNat := by
  unfold rowsDrawn; split <;> omega

/-- The framebuffer after one byte is XORed: that byte is changed and no other. -/
theorem Canvas.byte_xorByte (k : Canvas) (r r' : Fin 32) (c c' : Fin 8) (m : Byte) :
    (k.xorByte r c m).fb.byte r' c' =
      if r' = r ∧ c' = c then k.fb.byte r c ^^^ m else k.fb.byte r' c' := by
  rw [Canvas.xorByte, Frame.byte_setByte]

/-- The collision after one byte is XORed: an earlier one, or a bit set in both. -/
theorem Canvas.collision_xorByte (k : Canvas) (r : Fin 32) (c : Fin 8) (m : Byte) :
    (k.xorByte r c m).collision = true ↔ k.collision = true ∨ k.fb.byte r c &&& m ≠ 0#8 := by
  simp [Canvas.xorByte]

/-- The row after `cy`: the next one down, or row 0 past the last where the axis wraps, or none. -/
theorem nextRow_eq_some (ywrap : WrapPolicy) (cy cy' : Fin 32) :
    nextRow ywrap cy = some cy' ↔
      (cy.val < 31 ∧ cy'.val = cy.val + 1) ∨ (cy.val = 31 ∧ ywrap = .wrap ∧ cy'.val = 0) := by
  have := cy.isLt
  by_cases h : cy.val + 1 < 32
  · simp only [nextRow, h, ↓reduceDIte, Option.some.injEq, Fin.ext_iff]; omega
  · obtain rfl : cy = 31 := Fin.ext (by change cy.val = 31; omega)
    rw [show ((31 : Fin 32).val) = 31 from rfl]
    cases ywrap
    · rw [show nextRow .wrap 31 = some 0 from rfl, Option.some.injEq]; simp; exact eq_comm
    · rw [show nextRow .clip 31 = none from rfl]; simp
    · rw [show nextRow .fault 31 = none from rfl]; simp

/-! ### The compositor (R99, R100) -/

theorem Frame.byte_or (f g : Frame) (r : Fin 32) (c : Fin 8) : (f.or g).byte r c = f.byte r c ||| g.byte r c := by
  simp [Frame.or, Frame.byte]

theorem Frame.pixel_or (f g : Frame) (px : Fin 64) (py : Fin 32) :
    (f.or g).pixel px py = (f.pixel px py || g.pixel px py) := by
  simp [Frame.pixel, Frame.byte_or]

/-- The ring keeps its length. -/
theorem length_advanceRing {depth : Nat} (f : Frame) {hist : List Frame} (h : hist.length = depth) :
    (advanceRing depth f hist).length = depth := by
  simp [advanceRing, h]

end Sys2Proof.Machine
end

