-- ==== Sys2Proof/Laws/Encoding.lean ====
section
/-! SUPPORT. The fields of an encoded word, and the words and bytes of R31. -/

namespace Sys2Proof

/-! ### Format A: an operation digit and an address -/

@[simp] theorem fieldFamily_formatA (op : BitVec 4) (nnn : Addr12) : fieldFamily (op ++ nnn) = op := by
  apply BitVec.eq_of_toNat_eq
  have := op.isLt; have := nnn.isLt
  simp only [fieldFamily, BitVec.extractLsb'_toNat, BitVec.toNat_append, Nat.shiftRight_eq_div_pow, Nat.shiftLeft_eq]
  rw [← Nat.shiftLeft_eq, ← Nat.shiftLeft_add_eq_or_of_lt (by omega), Nat.shiftLeft_eq]
  omega

@[simp] theorem fieldNNN_formatA (op : BitVec 4) (nnn : Addr12) : fieldNNN (op ++ nnn) = nnn := by
  apply BitVec.eq_of_toNat_eq
  have := op.isLt; have := nnn.isLt
  simp only [fieldNNN, BitVec.extractLsb'_toNat, BitVec.toNat_append, Nat.shiftRight_zero]
  rw [← Nat.shiftLeft_add_eq_or_of_lt (by omega), Nat.shiftLeft_eq]
  omega

/-! ### Formats I and X: an operation digit, a register and a byte -/

theorem toNat_formatI (op x : BitVec 4) (kk : Byte) :
    (op ++ x ++ kk : BitVec 16).toNat = op.toNat * 4096 + x.toNat * 256 + kk.toNat := by
  have := op.isLt; have := x.isLt; have := kk.isLt
  simp only [BitVec.toNat_append]
  rw [← Nat.shiftLeft_add_eq_or_of_lt (by omega : x.toNat < 2 ^ 4),
    ← Nat.shiftLeft_add_eq_or_of_lt (by omega : kk.toNat < 2 ^ 8), Nat.shiftLeft_eq, Nat.shiftLeft_eq]
  omega

@[simp] theorem fieldFamily_formatI (op x : BitVec 4) (kk : Byte) : fieldFamily (op ++ x ++ kk) = op := by
  apply BitVec.eq_of_toNat_eq
  have := op.isLt; have := x.isLt; have := kk.isLt
  simp only [fieldFamily, BitVec.extractLsb'_toNat, Nat.shiftRight_eq_div_pow]
  rw [toNat_formatI]
  omega

@[simp] theorem fieldX_formatI (op x : BitVec 4) (kk : Byte) : fieldX (op ++ x ++ kk) = x := by
  apply BitVec.eq_of_toNat_eq
  have := op.isLt; have := x.isLt; have := kk.isLt
  simp only [fieldX, BitVec.extractLsb'_toNat, Nat.shiftRight_eq_div_pow]
  rw [toNat_formatI]
  omega

@[simp] theorem fieldKK_formatI (op x : BitVec 4) (kk : Byte) : fieldKK (op ++ x ++ kk) = kk := by
  apply BitVec.eq_of_toNat_eq
  have := op.isLt; have := x.isLt; have := kk.isLt
  simp only [fieldKK, BitVec.extractLsb'_toNat, Nat.shiftRight_eq_div_pow]
  rw [toNat_formatI]
  omega

/-! ### Formats R and D: an operation digit, two registers and a nibble -/

theorem toNat_formatR (op x y n : BitVec 4) :
    (op ++ x ++ y ++ n : BitVec 16).toNat = op.toNat * 4096 + x.toNat * 256 + y.toNat * 16 + n.toNat := by
  have := op.isLt; have := x.isLt; have := y.isLt; have := n.isLt
  simp only [BitVec.toNat_append]
  rw [← Nat.shiftLeft_add_eq_or_of_lt (by omega : x.toNat < 2 ^ 4),
    ← Nat.shiftLeft_add_eq_or_of_lt (by omega : y.toNat < 2 ^ 4),
    ← Nat.shiftLeft_add_eq_or_of_lt (by omega : n.toNat < 2 ^ 4),
    Nat.shiftLeft_eq, Nat.shiftLeft_eq, Nat.shiftLeft_eq]
  omega

@[simp] theorem fieldFamily_formatR (op x y n : BitVec 4) : fieldFamily (op ++ x ++ y ++ n) = op := by
  apply BitVec.eq_of_toNat_eq
  have := op.isLt; have := x.isLt; have := y.isLt; have := n.isLt
  simp only [fieldFamily, BitVec.extractLsb'_toNat, Nat.shiftRight_eq_div_pow]
  rw [toNat_formatR]
  omega

@[simp] theorem fieldX_formatR (op x y n : BitVec 4) : fieldX (op ++ x ++ y ++ n) = x := by
  apply BitVec.eq_of_toNat_eq
  have := op.isLt; have := x.isLt; have := y.isLt; have := n.isLt
  simp only [fieldX, BitVec.extractLsb'_toNat, Nat.shiftRight_eq_div_pow]
  rw [toNat_formatR]
  omega

@[simp] theorem fieldY_formatR (op x y n : BitVec 4) : fieldY (op ++ x ++ y ++ n) = y := by
  apply BitVec.eq_of_toNat_eq
  have := op.isLt; have := x.isLt; have := y.isLt; have := n.isLt
  simp only [fieldY, BitVec.extractLsb'_toNat, Nat.shiftRight_eq_div_pow]
  rw [toNat_formatR]
  omega

@[simp] theorem fieldN_formatR (op x y n : BitVec 4) : fieldN (op ++ x ++ y ++ n) = n := by
  apply BitVec.eq_of_toNat_eq
  have := op.isLt; have := x.isLt; have := y.isLt; have := n.isLt
  simp only [fieldN, BitVec.extractLsb'_toNat, Nat.shiftRight_eq_div_pow]
  rw [toNat_formatR]
  omega

/-! ### A word from its fields -/

theorem toNat_fieldFamily (w : Word) : (fieldFamily w).toNat = w.toNat / 4096 := by
  have := w.isLt
  simp only [fieldFamily, BitVec.extractLsb'_toNat, Nat.shiftRight_eq_div_pow]
  omega

theorem toNat_fieldX (w : Word) : (fieldX w).toNat = w.toNat / 256 % 16 := by
  simp only [fieldX, BitVec.extractLsb'_toNat, Nat.shiftRight_eq_div_pow]

theorem toNat_fieldY (w : Word) : (fieldY w).toNat = w.toNat / 16 % 16 := by
  simp only [fieldY, BitVec.extractLsb'_toNat, Nat.shiftRight_eq_div_pow]

theorem toNat_fieldN (w : Word) : (fieldN w).toNat = w.toNat % 16 := by
  simp only [fieldN, BitVec.extractLsb'_toNat, Nat.shiftRight_zero]

theorem toNat_fieldKK (w : Word) : (fieldKK w).toNat = w.toNat % 256 := by
  simp only [fieldKK, BitVec.extractLsb'_toNat, Nat.shiftRight_zero]

theorem toNat_fieldNNN (w : Word) : (fieldNNN w).toNat = w.toNat % 4096 := by
  simp only [fieldNNN, BitVec.extractLsb'_toNat, Nat.shiftRight_zero]

theorem word_of_formatA (w : Word) : fieldFamily w ++ fieldNNN w = w := by
  apply BitVec.eq_of_toNat_eq
  have := (fieldNNN w).isLt
  simp only [BitVec.toNat_append]
  rw [← Nat.shiftLeft_add_eq_or_of_lt (by omega), Nat.shiftLeft_eq, toNat_fieldFamily, toNat_fieldNNN]
  omega

theorem word_of_formatI (w : Word) : fieldFamily w ++ fieldX w ++ fieldKK w = w := by
  apply BitVec.eq_of_toNat_eq
  rw [toNat_formatI, toNat_fieldFamily, toNat_fieldX, toNat_fieldKK]
  omega

theorem word_of_formatR (w : Word) : fieldFamily w ++ fieldX w ++ fieldY w ++ fieldN w = w := by
  apply BitVec.eq_of_toNat_eq
  rw [toNat_formatR, toNat_fieldFamily, toNat_fieldX, toNat_fieldY, toNat_fieldN]
  omega

/-! ### Words and bytes -/

@[simp] theorem wordOfBytes_bytes (w : Word) : wordOfBytes (highByte w) (lowByte w) = w := by
  apply BitVec.eq_of_toNat_eq
  have := w.isLt
  simp only [wordOfBytes, highByte, lowByte, BitVec.toNat_append, BitVec.extractLsb'_toNat,
    Nat.shiftRight_eq_div_pow]
  rw [← Nat.shiftLeft_add_eq_or_of_lt (by omega), Nat.shiftLeft_eq]
  omega

end Sys2Proof
end

