-- ==== Sys2Proof/Laws/PerInstr.lean ====
section
/-! SUPPORT. Statements made instruction by instruction about `Instr` as syntax. -/

namespace Sys2Proof.Laws.FixedBits

/-- The word of an instruction has the fixed bits of its row of the opcode map (R48). -/
def Statement (i : Instr) : Prop := (opcodeRow i).selects (encode i) = true

theorem and_family_mask (op : BitVec 4) (rest : BitVec 12) :
    (op ++ rest : BitVec 16) &&& 0xF000#16 = op ++ 0#12 := by
  rw [show (0xF000#16 : BitVec 16) = BitVec.allOnes 4 ++ 0#12 from rfl, BitVec.and_append,
    BitVec.and_allOnes, BitVec.and_zero]

theorem and_family_mask_formatI (op x : BitVec 4) (kk : Byte) :
    (op ++ x ++ kk : BitVec 16) &&& 0xF000#16 = op ++ 0#4 ++ 0#8 := by
  rw [show (0xF000#16 : BitVec 16) = BitVec.allOnes 4 ++ 0#4 ++ 0#8 from rfl, BitVec.and_append,
    BitVec.and_append, BitVec.and_allOnes, BitVec.and_zero, BitVec.and_zero]

theorem and_family_mask_formatD (op x y n : BitVec 4) :
    (op ++ x ++ y ++ n : BitVec 16) &&& 0xF000#16 = op ++ 0#4 ++ 0#4 ++ 0#4 := by
  rw [show (0xF000#16 : BitVec 16) = BitVec.allOnes 4 ++ 0#4 ++ 0#4 ++ 0#4 from rfl]
  rw [BitVec.and_append, BitVec.and_append, BitVec.and_append, BitVec.and_allOnes, BitVec.and_zero, BitVec.and_zero,
    BitVec.and_zero]

theorem and_nibble_mask (op x y n : BitVec 4) :
    (op ++ x ++ y ++ n : BitVec 16) &&& 0xF00F#16 = op ++ 0#4 ++ 0#4 ++ n := by
  rw [show (0xF00F#16 : BitVec 16) = BitVec.allOnes 4 ++ 0#4 ++ 0#4 ++ BitVec.allOnes 4 from rfl]
  rw [BitVec.and_append, BitVec.and_append, BitVec.and_append, BitVec.and_allOnes, BitVec.and_zero, BitVec.and_zero,
    BitVec.and_allOnes]

theorem and_byte_mask (op x : BitVec 4) (kk : Byte) :
    (op ++ x ++ kk : BitVec 16) &&& 0xF0FF#16 = op ++ 0#4 ++ kk := by
  rw [show (0xF0FF#16 : BitVec 16) = BitVec.allOnes 4 ++ 0#4 ++ BitVec.allOnes 8 from rfl]
  rw [BitVec.and_append, BitVec.and_append, BitVec.and_allOnes, BitVec.and_zero, BitVec.and_allOnes]

theorem cls : Statement (.cls) := rfl
theorem ret : Statement (.ret) := rfl
theorem sys (nnn : Addr12) : Statement (.sys nnn) := beq_iff_eq.2 (and_family_mask _ _)
theorem jp (nnn : Addr12) : Statement (.jp nnn) := beq_iff_eq.2 (and_family_mask _ _)
theorem call (nnn : Addr12) : Statement (.call nnn) := beq_iff_eq.2 (and_family_mask _ _)
theorem seImm (x : RegIdx) (kk : Byte) : Statement (.seImm x kk) := beq_iff_eq.2 (and_family_mask_formatI _ _ _)
theorem sneImm (x : RegIdx) (kk : Byte) : Statement (.sneImm x kk) := beq_iff_eq.2 (and_family_mask_formatI _ _ _)
theorem seReg (x y : RegIdx) : Statement (.seReg x y) := beq_iff_eq.2 (and_nibble_mask _ _ _ _)
theorem ldImm (x : RegIdx) (kk : Byte) : Statement (.ldImm x kk) := beq_iff_eq.2 (and_family_mask_formatI _ _ _)
theorem addImm (x : RegIdx) (kk : Byte) : Statement (.addImm x kk) := beq_iff_eq.2 (and_family_mask_formatI _ _ _)
theorem ldReg (x y : RegIdx) : Statement (.ldReg x y) := beq_iff_eq.2 (and_nibble_mask _ _ _ _)
theorem orReg (x y : RegIdx) : Statement (.orReg x y) := beq_iff_eq.2 (and_nibble_mask _ _ _ _)
theorem andReg (x y : RegIdx) : Statement (.andReg x y) := beq_iff_eq.2 (and_nibble_mask _ _ _ _)
theorem xorReg (x y : RegIdx) : Statement (.xorReg x y) := beq_iff_eq.2 (and_nibble_mask _ _ _ _)
theorem addReg (x y : RegIdx) : Statement (.addReg x y) := beq_iff_eq.2 (and_nibble_mask _ _ _ _)
theorem subReg (x y : RegIdx) : Statement (.subReg x y) := beq_iff_eq.2 (and_nibble_mask _ _ _ _)
theorem shr (x y : RegIdx) : Statement (.shr x y) := beq_iff_eq.2 (and_nibble_mask _ _ _ _)
theorem subn (x y : RegIdx) : Statement (.subn x y) := beq_iff_eq.2 (and_nibble_mask _ _ _ _)
theorem shl (x y : RegIdx) : Statement (.shl x y) := beq_iff_eq.2 (and_nibble_mask _ _ _ _)
theorem sneReg (x y : RegIdx) : Statement (.sneReg x y) := beq_iff_eq.2 (and_nibble_mask _ _ _ _)
theorem ldI (nnn : Addr12) : Statement (.ldI nnn) := beq_iff_eq.2 (and_family_mask _ _)
theorem jpV0 (nnn : Addr12) : Statement (.jpV0 nnn) := beq_iff_eq.2 (and_family_mask _ _)
theorem rnd (x : RegIdx) (kk : Byte) : Statement (.rnd x kk) := beq_iff_eq.2 (and_family_mask_formatI _ _ _)
theorem drw (x y n : BitVec 4) : Statement (.drw x y n) := beq_iff_eq.2 (and_family_mask_formatD _ _ _ _)
theorem skp (x : RegIdx) : Statement (.skp x) := beq_iff_eq.2 (and_byte_mask _ _ _)
theorem sknp (x : RegIdx) : Statement (.sknp x) := beq_iff_eq.2 (and_byte_mask _ _ _)
theorem ldVxDt (x : RegIdx) : Statement (.ldVxDt x) := beq_iff_eq.2 (and_byte_mask _ _ _)
theorem ldVxK (x : RegIdx) : Statement (.ldVxK x) := beq_iff_eq.2 (and_byte_mask _ _ _)
theorem ldDtVx (x : RegIdx) : Statement (.ldDtVx x) := beq_iff_eq.2 (and_byte_mask _ _ _)
theorem ldStVx (x : RegIdx) : Statement (.ldStVx x) := beq_iff_eq.2 (and_byte_mask _ _ _)
theorem addI (x : RegIdx) : Statement (.addI x) := beq_iff_eq.2 (and_byte_mask _ _ _)
theorem ldF (x : RegIdx) : Statement (.ldF x) := beq_iff_eq.2 (and_byte_mask _ _ _)
theorem ldB (x : RegIdx) : Statement (.ldB x) := beq_iff_eq.2 (and_byte_mask _ _ _)
theorem storeRegs (x : RegIdx) : Statement (.storeRegs x) := beq_iff_eq.2 (and_byte_mask _ _ _)
theorem loadRegs (x : RegIdx) : Statement (.loadRegs x) := beq_iff_eq.2 (and_byte_mask _ _ _)

end Sys2Proof.Laws.FixedBits
end

