-- ==== Sys2Proof/Laws/Step.lean ====
section
/-! SUPPORT. What one tick can do. -/

namespace Sys2Proof.Machine

@[simp] theorem andThen_next (s : State) (k : State → State) : andThen (.next s) k = .next (k s) := rfl
@[simp] theorem andThen_fault (r : Fault) (k : State → State) : andThen (.fault r) k = .fault r := rfl
@[simp] theorem andThen_refused (r : Refusal) (k : State → State) : andThen (.refused r) k = .refused r := rfl

theorem andThen_eq_next {o : Host.Outcome State Fault Refusal} {k : State → State} {t : State} :
    andThen o k = .next t ↔ ∃ u, o = .next u ∧ k u = t := by
  cases o <;> simp [andThen]

theorem State.pastProgram_iff (s : State) : s.pastProgram = true ↔ 0x200 + s.romlength ≤ s.pc.toNat := by
  simp [State.pastProgram]

/-- Fetch reads a word where two bytes of memory lie at the `pc` (R31). -/
theorem State.fetch_of_le {s : State} (h : s.pc.toNat + 2 ≤ 4096) :
    s.fetch = .word (wordOfBytes (s.byteAt s.pc.toNat) (s.byteAt (s.pc.toNat + 1))) := by
  rw [State.fetch, (firstOutOfBounds_eq_none _ _).2 (.inl h)]

/-- Fetch leaves memory where they do not (R33). -/
theorem State.fetch_of_lt {s : State} (h : 4096 < s.pc.toNat + 2) :
    s.fetch = .outOfBounds (max s.pc.toNat 4096) := by
  rw [State.fetch, (firstOutOfBounds_eq_some _ _ _).2 ⟨h, by decide, rfl⟩]

/-- What can answer a next state for one interpreted instruction: a fetch out of bounds, an instruction, or an
unrecognised word. -/
theorem State.interpret_cases {s t : State} (h : s.interpret = .next t) :
    (4096 < s.pc.toNat + 2 ∧ t = fetchFault (max s.pc.toNat 4096) s) ∨
    ∃ w, s.pc.toNat + 2 ≤ 4096 ∧ w = wordOfBytes (s.byteAt s.pc.toNat) (s.byteAt (s.pc.toNat + 1)) ∧
      ((∃ i, decodeWord w = some i ∧ exec i s = .next t) ∨ (decodeWord w = none ∧ t = execUnrecognised w s)) := by
  by_cases hb : s.pc.toNat + 2 ≤ 4096
  · refine .inr ⟨_, hb, rfl, ?_⟩
    rw [State.interpret, State.fetch_of_le hb] at h
    simp only [execWord] at h
    split at h
    · next i hi => exact .inl ⟨i, hi, h⟩
    · next hi => cases h; exact .inr ⟨hi, rfl⟩
  · refine .inl ⟨by omega, ?_⟩
    rw [State.interpret, State.fetch_of_lt (by omega)] at h
    cases h; rfl

/-- What can answer a next state for one tick (R115): the end-of-run test, an interpreted instruction and the rest of
the tick, or a paused tick. -/
theorem step_cases {s t : State} (h : step s = .next t) :
    ((s.run = .running ∨ s.run = .paused) ∧ s.pastProgram = true ∧ t = s.halt) ∨
    (s.run = .running ∧ s.pastProgram = false ∧ ∃ u, s.beginTick.interpret = .next u ∧ t = u.endTick) ∨
    (s.run = .paused ∧ s.pastProgram = false ∧ t = s.beginTick.finishTick) := by
  unfold step at h
  split at h
  · cases h
  · cases h
  · next hr =>
    split at h
    · next hp => cases h; exact .inl ⟨.inr hr, hp, rfl⟩
    · next hp => cases h; exact .inr (.inr ⟨hr, by simpa using hp, rfl⟩)
  · next hr =>
    split at h
    · next hp => cases h; exact .inl ⟨.inl hr, hp, rfl⟩
    · next hp =>
      obtain ⟨u, hu, rfl⟩ := andThen_eq_next.1 h
      exact .inr (.inl ⟨hr, by simpa using hp, u, hu, rfl⟩)

/-- Taking the run loop's fields from a state that agrees in all others gives that state. -/
theorem State.withRunLoopOf_eq_self {s t : State} (hv : t.v = s.v) (hI : t.I = s.I) (hpc : t.pc = s.pc)
    (hsp : t.sp = s.sp) (hstack : t.stack = s.stack) (hmem : t.mem = s.mem) (hfb : t.fb = s.fb)
    (hrom : t.romlength = s.romlength) (hdraw : t.drawFlag = s.drawFlag) (hcfg : t.cfg = s.cfg)
    (hkey : t.keyWaiting = s.keyWaiting) : s.withRunLoopOf t = t := by
  cases t; simp_all [State.withRunLoopOf]

/-- Steps 4 to 6 write no field but those `endTick` takes from them. -/
theorem State.withRunLoopOf_finishTick (s : State) : s.withRunLoopOf s.finishTick = s.finishTick := by
  apply State.withRunLoopOf_eq_self
  all_goals
    simp only [State.finishTick, State.presentIfDrawn, State.countIfRunning, State.countTick, State.timerEvent]
    repeat' split
  all_goals simp [State.compose, State.emit, State.pollHost]

/-- The rest of a tick: steps 4 to 6, or nothing. -/
theorem State.endTick_eq (s : State) :
    s.endTick = if s.run = .running ∧ s.keyWaiting = false then s.finishTick else s := by
  unfold State.endTick
  split
  · exact s.withRunLoopOf_finishTick
  · rfl

/-! ### The machine without its compositor (R102) -/

/-- A presentation leaves all but the compositor's own part of the state as it was. -/
@[simp] theorem State.withoutCompositor_compose (s : State) : s.compose.withoutCompositor = s.withoutCompositor := by
  simp [State.compose, State.emit, State.withoutCompositor, Event.isPresent]

/-- An unrecognised word does the same to the rest of the state with the compositor's part left out. -/
theorem withoutCompositor_execUnrecognised (w : Word) (s : State) :
    (execUnrecognised w s).withoutCompositor = execUnrecognised w s.withoutCompositor := by
  simp [execUnrecognised, State.emit, State.advance, State.setPc, State.withoutCompositor, Event.isPresent]

/-- So does a fatal condition. -/
theorem withoutCompositor_raiseFatal (c : Cause) (w : Option Word) (s : State) :
    (raiseFatal c w s).withoutCompositor = raiseFatal c w s.withoutCompositor := by
  simp [raiseFatal, State.emit, State.withoutCompositor, Event.isPresent]

end Sys2Proof.Machine
end

