-- ==== Sys2Proof/Tests/Slice0.lean ====
section
/-! SUPPORT. Our own tests: each expected value is a vector of spec/95_test_vectors.md (its id stands in the comment)
or computed by hand from the cited rule; then a witness for the hypotheses of every statement. -/

namespace Sys2Proof.Tests

open Sys2Proof Sys2Proof.Machine

/-! ### Helpers -/

/-- The conventions of spec/95_test_vectors.md under a pair of policies. -/
def config (xwrap ywrap : WrapPolicy) : Config := ⟨xwrap, ywrap, 1, 1, .sixteen, .x, false, false⟩

/-- The reset state under both policies `wrap`. -/
def start : State := { State.reset with cfg := config .wrap .wrap }

/-- `start` with registers set. -/
def withRegs (rs : List (RegIdx × Byte)) : State := rs.foldl (fun s r => s.setReg r.1 r.2) start

/-- A part of the state after one word is executed. -/
def after {α : Type} (w : Word) (s : State) (f : State → α) : Option α :=
  match execWord w s with
  | .next t => some (f t)
  | .fault _ => none
  | .refused _ => none

/-- A part of the state after one tick. -/
def afterTick {α : Type} (s : State) (f : State → α) : Option α :=
  match step s with
  | .next t => some (f t)
  | .fault _ => none
  | .refused _ => none

/-- A state whose next poll answers that the run goes on. -/
def polling (paused running : Bool) (s : State) : State :=
  { s with ports := { s.ports with poll := [⟨paused, running⟩] } }

/-- A draw state: `I` at 0x300, the sprite there, V0 and V1 the origin. -/
def drawing (xwrap ywrap : WrapPolicy) (x0 y0 : Byte) (sprite : List Byte) : State :=
  { withRegs [(0, x0), (1, y0)] with
    cfg := config xwrap ywrap, I := 0x300#16, mem := Memory.writeBytes [] 0x300 sprite }

/-! ### Ill-formed instructions are refused -/

theorem test_wellFormed_refuses_sys_of_cls : (Instr.sys 0x0E0).wellFormed = false := by decide
theorem test_wellFormed_refuses_sys_of_ret : (Instr.sys 0x0EE).wellFormed = false := by decide
theorem test_wellFormed_accepts_sys_near_cls : (Instr.sys 0x0E1).wellFormed = true := by decide

/-! ### Words written out bit by bit from R43 and R48 -/

theorem test_decode_family0 :
    decodeWord 0b0000000011100000#16 = some .cls ∧ decodeWord 0b0000000011101110#16 = some .ret ∧
    decodeWord 0b0000000011100001#16 = some (.sys 0x0E1) ∧ decodeWord 0b0000111111111111#16 = some (.sys 0xFFF) := by
  decide
theorem test_decode_jumps :
    decodeWord 0b0001001000110100#16 = some (.jp 0x234) ∧ decodeWord 0b0010001100000000#16 = some (.call 0x300) ∧
    decodeWord 0b1011001000010000#16 = some (.jpV0 0x210) := by decide
theorem test_decode_skips :
    decodeWord 0b0011001100101010#16 = some (.seImm 3 0x2A) ∧ decodeWord 0b0100001100101011#16 = some (.sneImm 3 0x2B) ∧
    decodeWord 0b0101000100100000#16 = some (.seReg 1 2) ∧ decodeWord 0b1001000100100000#16 = some (.sneReg 1 2) := by
  decide
theorem test_decode_immediates :
    decodeWord 0b0110101001111111#16 = some (.ldImm 0xA 0x7F) ∧
    decodeWord 0b0111001100000101#16 = some (.addImm 3 0x05) ∧
    decodeWord 0b1010000100100011#16 = some (.ldI 0x123) ∧ decodeWord 0b1100001100001111#16 = some (.rnd 3 0x0F) := by
  decide
theorem test_decode_family8_low :
    decodeWord 0b1000000100100000#16 = some (.ldReg 1 2) ∧ decodeWord 0b1000000100100001#16 = some (.orReg 1 2) ∧
    decodeWord 0b1000000100100010#16 = some (.andReg 1 2) ∧ decodeWord 0b1000000100100011#16 = some (.xorReg 1 2) := by
  decide
theorem test_decode_family8_high :
    decodeWord 0b1000000100100100#16 = some (.addReg 1 2) ∧ decodeWord 0b1000000100100101#16 = some (.subReg 1 2) ∧
    decodeWord 0b1000000100100110#16 = some (.shr 1 2) ∧ decodeWord 0b1000000100100111#16 = some (.subn 1 2) ∧
    decodeWord 0b1000000100101110#16 = some (.shl 1 2) := by decide
theorem test_decode_draw_and_keys :
    decodeWord 0b1101000100100101#16 = some (.drw 1 2 5) ∧ decodeWord 0b1110001010011110#16 = some (.skp 2) ∧
    decodeWord 0b1110001010100001#16 = some (.sknp 2) ∧ decodeWord 0b1111010100001010#16 = some (.ldVxK 5) := by decide
theorem test_decode_timers_and_index :
    decodeWord 0b1111010000000111#16 = some (.ldVxDt 4) ∧ decodeWord 0b1111010000010101#16 = some (.ldDtVx 4) ∧
    decodeWord 0b1111010000011000#16 = some (.ldStVx 4) ∧ decodeWord 0b1111000000011110#16 = some (.addI 0) ∧
    decodeWord 0b1111000100101001#16 = some (.ldF 1) := by decide
theorem test_decode_memory :
    decodeWord 0b1111000000110011#16 = some (.ldB 0) ∧ decodeWord 0b1111001101010101#16 = some (.storeRegs 3) ∧
    decodeWord 0b1111001101100101#16 = some (.loadRegs 3) := by decide
/-- X-1 to X-6. -/
theorem test_decode_unrecognised :
    decodeWord 0x8018#16 = none ∧ decodeWord 0x8ABF#16 = none ∧ decodeWord 0x5121#16 = none ∧
    decodeWord 0x912F#16 = none ∧ decodeWord 0xE19F#16 = none ∧ decodeWord 0xF175#16 = none := by decide

/-! ### Family 0, jumps, skips -/

/-- F0-1 -/
theorem test_cls : after 0x00E0#16 { withRegs [(0xF, 1)] with fb := Frame.blank.setByte 3 2 0xFF#8 }
    (fun t => (t.fb.byte 3 2, t.reg 0xF, t.pc)) = some (0#8, 1#8, 0x202#16) := by decide
/-- F0-2 -/
theorem test_ret : after 0x00EE#16 { start with sp := 2, stack := start.stack.set 1 0x0300#16 }
    (fun t => (t.sp, t.pc)) = some (1, 0x0302#16) := by decide
/-- F0-3 -/
theorem test_ret_underflow : after 0x00EE#16 start (fun t => (t.run, t.sp, t.pc, t.events)) =
    some (.aborted .stackUnderflow, 0, 0x200#16, [.diagFatal .stackUnderflow 0x200#16 (some 0x00EE#16)]) := by decide
/-- F0-6 -/
theorem test_sys : after 0x00EF#16 start (fun t => (t.pc, t.events)) = some (0x202#16, []) := by decide
/-- J-3 -/
theorem test_jp_lowest : after 0x1200#16 start (fun t => (t.pc, t.run)) = some (0x200#16, .running) := by decide
/-- J-2 -/
theorem test_jp_range : after 0x11FF#16 start State.run = some (.aborted (.jumpTargetRange 0x1FF#12)) := by decide
/-- J-5 -/
theorem test_call : after 0x2300#16 { start with pc := 0x208#16, sp := 3 }
    (fun t => (t.stack[3], t.sp, t.pc)) = some (0x208#16, 4, 0x300#16) := by decide
/-- J-8 -/
theorem test_call_overflow_first : after 0x2100#16 { start with sp := 16 } State.run =
    some (.aborted .stackOverflow) := by decide
/-- J-11 -/
theorem test_jpV0_above : after 0xBFFF#16 (withRegs [(0, 0xFF)]) State.pc = some 0x10FE#16 := by decide
/-- J-13 -/
theorem test_seImm_taken : after 0x332A#16 (withRegs [(3, 0x2A)]) State.pc = some 0x204#16 := by decide
/-- J-14 -/
theorem test_seImm_not : after 0x332B#16 (withRegs [(3, 0x2A)]) State.pc = some 0x202#16 := by decide
/-- J-16 -/
theorem test_sneImm_taken : after 0x432B#16 (withRegs [(3, 0x2A)]) State.pc = some 0x204#16 := by decide
/-- J-18 -/
theorem test_seReg_not : after 0x5120#16 (withRegs [(1, 7), (2, 8)]) State.pc = some 0x202#16 := by decide
/-- J-19 -/
theorem test_seReg_same : after 0x5440#16 start State.pc = some 0x204#16 := by decide
/-- J-20 -/
theorem test_sneReg_taken : after 0x9120#16 (withRegs [(1, 7), (2, 8)]) State.pc = some 0x204#16 := by decide

/-! ### Loads and the ALU family -/

/-- A-1 -/
theorem test_ldImm : after 0x6A7F#16 start (fun t => (t.reg 0xA, t.pc)) = some (0x7F#8, 0x202#16) := by decide
/-- A-3 -/
theorem test_addImm_wraps : after 0x7305#16 (withRegs [(3, 0xFE)]) (fun t => (t.reg 3, t.reg 0xF)) =
    some (0x03#8, 0#8) := by decide
/-- A-5 -/
theorem test_ldReg : after 0x8010#16 (withRegs [(1, 0x2A)]) (fun t => (t.reg 0, t.reg 1)) =
    some (0x2A#8, 0x2A#8) := by decide
/-- A-6 -/
theorem test_or : after 0x8011#16 (withRegs [(0, 0xF0), (1, 0x0F), (0xF, 1)]) (fun t => (t.reg 0, t.reg 0xF)) =
    some (0xFF#8, 1#8) := by decide
/-- A-7 -/
theorem test_and : after 0x8012#16 (withRegs [(0, 0xF0), (1, 0x3C)]) (fun t => t.reg 0) = some 0x30#8 := by decide
/-- A-8 -/
theorem test_xor : after 0x8013#16 (withRegs [(0, 0xF0), (1, 0x3C)]) (fun t => t.reg 0) = some 0xCC#8 := by decide
/-- A-11 -/
theorem test_add_carry : after 0x8014#16 (withRegs [(0, 0xFF), (1, 1)]) (fun t => (t.reg 0, t.reg 0xF)) =
    some (0#8, 1#8) := by decide
/-- A-14 -/
theorem test_add_flag_survives : after 0x8F04#16 (withRegs [(0xF, 5), (0, 0xFF)]) (fun t => t.reg 0xF) =
    some 1#8 := by decide
/-- A-18 -/
theorem test_sub_borrow : after 0x8015#16 (withRegs [(0, 3), (1, 0x0A)]) (fun t => (t.reg 0, t.reg 0xF)) =
    some (0xF9#8, 0#8) := by decide
/-- A-19 -/
theorem test_sub_equal : after 0x8015#16 (withRegs [(0, 5), (1, 5), (0xF, 1)]) (fun t => (t.reg 0, t.reg 0xF)) =
    some (0#8, 0#8) := by decide
/-- A-24, SHIFT_SOURCE `x` -/
theorem test_shr_x : after 0x8236#16 (withRegs [(2, 4), (3, 0xFF)]) (fun t => (t.reg 2, t.reg 0xF)) =
    some (2#8, 0#8) := by decide
/-- A-24, SHIFT_SOURCE `y` -/
theorem test_shr_y : after 0x8236#16
    { withRegs [(2, 4), (3, 0xFF)] with cfg := ⟨.wrap, .wrap, 1, 1, .sixteen, .y, false, false⟩ }
    (fun t => (t.reg 2, t.reg 0xF)) = some (0x7F#8, 1#8) := by decide
/-- A-26 -/
theorem test_subn : after 0x8017#16 (withRegs [(0, 3), (1, 0x0A)]) (fun t => (t.reg 0, t.reg 0xF)) =
    some (7#8, 1#8) := by decide
/-- A-28 -/
theorem test_subn_equal : after 0x8017#16 (withRegs [(0, 5), (1, 5), (0xF, 1)]) (fun t => t.reg 0xF) =
    some 0#8 := by decide
/-- A-29 -/
theorem test_shl : after 0x820E#16 (withRegs [(2, 0x81)]) (fun t => (t.reg 2, t.reg 0xF)) =
    some (2#8, 1#8) := by decide
/-- A-33 -/
theorem test_ldI : after 0xAFFF#16 start State.I = some 0x0FFF#16 := by decide
/-- A-34 -/
theorem test_rnd : after 0xC30F#16 { start with ports := { start.ports with random := [0xB7] } }
    (fun t => (t.reg 3, t.ports.random)) = some (7#8, []) := by decide

/-! ### The draw -/

/-- DV-1 -/
theorem test_draw_wraps_right : after 0xD011#16 (drawing .wrap .clip 63 0 [0xFF])
    (fun t => (t.fb.byte 0 7, t.fb.byte 0 0, t.reg 0xF)) = some (0x01#8, 0xFE#8, 0#8) := by decide
/-- DV-12 -/
theorem test_draw_collides : after 0xD011#16
    { drawing .wrap .clip 63 5 [0xC0] with fb := Frame.blank.setByte 5 7 0x01#8 }
    (fun t => (t.fb.byte 5 7, t.fb.byte 5 0, t.reg 0xF)) = some (0#8, 0x80#8, 1#8) := by decide

/-! ### The keyboard -/

/-- K-1 -/
theorem test_skp_down : after 0xE29E#16 { withRegs [(2, 0x0A)] with ports := ⟨[], [true], [], [], 0⟩ } State.pc =
    some 0x204#16 := by decide
/-- K-5 -/
theorem test_skp_range : after 0xE29E#16 (withRegs [(2, 0x10)]) State.run = some (.aborted (.keyRange 16#8)) := by
  decide
/-- K-4 -/
theorem test_sknp_down : after 0xE2A1#16 { withRegs [(2, 0x0A)] with ports := ⟨[], [true], [], [], 0⟩ } State.pc =
    some 0x202#16 := by decide
/-- K-7 -/
theorem test_ldVxK_key : after 0xF50A#16
    { start with pc := 0x230#16, ports := ⟨[], [], [.answered 7 false], [], 0⟩ }
    (fun t => (t.reg 5, t.pc)) = some (7#8, 0x232#16) := by decide
/-- K-8 -/
theorem test_ldVxK_quit : after 0xF50A#16
    { start with pc := 0x230#16, dt := 9#8, ports := ⟨[], [], [.answered 3 true], [], 0⟩ }
    (fun t => (t.run, t.pc, t.reg 5, t.dt)) = some (.halted, 0x230#16, 0#8, 9#8) := by decide

/-! ### Timers, index, memory -/

/-- T-1 -/
theorem test_ldVxDt : after 0xF407#16 { start with dt := 0x3C#8 } (fun t => t.reg 4) = some 0x3C#8 := by decide
/-- T-2 -/
theorem test_ldDtVx : after 0xF415#16 (withRegs [(4, 0x3C)]) (fun t => (t.dt, t.st)) = some (0x3C#8, 0#8) := by decide
/-- T-3 -/
theorem test_ldStVx : after 0xF418#16 (withRegs [(4, 2)]) (fun t => (t.st, t.dt, t.events)) =
    some (2#8, 0#8, []) := by decide
/-- T-6 -/
theorem test_addI_wraps : after 0xF01E#16 { withRegs [(0, 2)] with I := 0xFFFF#16 } State.I = some 1#16 := by decide
/-- T-10 -/
theorem test_ldF_no_mask : after 0xF129#16 (withRegs [(1, 0xFF)]) State.I = some 0x054B#16 := by decide
/-- T-11 -/
theorem test_ldB : after 0xF033#16 { withRegs [(0, 0x9C)] with I := 0x300#16 }
    (fun t => (t.byteAt 0x300, t.byteAt 0x301, t.byteAt 0x302)) = some (1#8, 5#8, 6#8) := by decide
/-- T-14 -/
theorem test_ldB_bounds : after 0xF033#16 { start with I := 0x0FFE#16 } (fun t => (t.run, t.mem)) =
    some (.aborted (.memoryBounds 0x1000), []) := by decide
/-- T-15 -/
theorem test_storeRegs : after 0xF155#16 { withRegs [(0, 0x11), (1, 0x22), (2, 0x33)] with I := 0x300#16 }
    (fun t => (t.mem, t.I)) = some ([(0x300, 0x11#8), (0x301, 0x22#8)], 0x300#16) := by decide
/-- T-19 -/
theorem test_loadRegs : after 0xF165#16
    { withRegs [(2, 0x99)] with I := 0x300#16, mem := [(0x300, 0x11#8), (0x301, 0x22#8), (0x302, 0x33#8)] }
    (fun t => (t.reg 0, t.reg 1, t.reg 2)) = some (0x11#8, 0x22#8, 0x99#8) := by decide

/-! ### Ticks -/

/-- X-1, as a whole tick. -/
theorem test_tick_unrecognised : afterTick (polling false true (start.withFetchWord 16 0x8018))
    (fun t => (t.pc, t.events, t.run)) = some (0x202#16, [.diagUnrecognised 0x8018#16], .running) := by decide
/-- L-1, its first tick. -/
theorem test_tick_bell : afterTick (polling false true { start.withFetchWord 16 0x1200 with st := 3#8 })
    (fun t => (t.st, t.events)) = some (2#8, [.bell]) := by decide
/-- L-3 -/
theorem test_tick_empty_program : afterTick start (fun t => (t.run, t.pc, t.events)) =
    some (.halted, 0x200#16, []) := by decide
/-- L-4, a draw in the tick of a pause is not presented. -/
theorem test_tick_pause : afterTick (polling true true ((drawing .wrap .wrap 0 0 [0xFF]).withFetchWord 16 0xD011))
    (fun t => (t.run, t.fb.byte 0 0, t.events, t.tickCtr)) = some (.paused, 0xFF#8, [], 0) := by decide
/-- L-6 -/
theorem test_tick_quit_wins : afterTick (polling true false { start.withFetchWord 16 0x0000 with run := .paused })
    State.run = some .halted := by decide
/-- L-7 -/
theorem test_tick_fetch_fault : afterTick { start with pc := 0xFFF#16, romlength := 3584 } State.run =
    some (.aborted (.memoryBounds 0x1000)) := by decide
/-- C-1, its second presentation. -/
theorem test_compose : ((fun t : State => t.hist.map fun f => f.byte 0 0)
    { start with fb := Frame.blank.setByte 0 0 0x40#8, hist := [Frame.blank.setByte 0 0 0x80#8] }.compose) =
    [0x40#8] := by decide
/-- C-1, its second presentation. -/
theorem test_blend : (blend (Frame.blank.setByte 0 0 0x40#8) [Frame.blank.setByte 0 0 0x80#8]).byte 0 0 = 0xC0#8 := by
  decide

/-! ### Witnesses: states and operands that meet the hypotheses of each statement

The name of each says which statement (`Obligations.…`) it is for. -/

/-- A program of one word at 0x200, whose next poll answers that the run goes on. -/
def running1 (w : Nat) : State := polling false true (start.withFetchWord 16 w)

theorem witness_DecodeOfEncodeIsIdentity : (Instr.drw 0xF 0xF 0xF).wellFormed = true := by decide
theorem witness_EncodeOfDecodeIsIdentity : decodeWord 0xFFFF#16 = none ∧ decodeWord 0xFF65#16 = some (.loadRegs 0xF) := by
  decide

theorem witness_StepRunsDecodedInstruction :
    (running1 0x6A7F).run = .running ∧ (running1 0x6A7F).pc.toNat < 0x200 + (running1 0x6A7F).romlength ∧
    (running1 0x6A7F).pc.toNat + 1 ≤ 0xFFF ∧
    decode [(running1 0x6A7F).byteAt (running1 0x6A7F).pc.toNat,
      (running1 0x6A7F).byteAt ((running1 0x6A7F).pc.toNat + 1)] = .ok (.ldImm 0xA 0x7F, []) :=
  ⟨rfl, by decide, by decide, rfl⟩
theorem witness_StepReportsUnrecognisedWord :
    (running1 0x8018).run = .running ∧ (running1 0x8018).pc.toNat < 0x200 + (running1 0x8018).romlength ∧
    (running1 0x8018).pc.toNat + 1 ≤ 0xFFF ∧
    decode [(running1 0x8018).byteAt (running1 0x8018).pc.toNat,
      (running1 0x8018).byteAt ((running1 0x8018).pc.toNat + 1)] = .error (.unrecognised 0x8018#16) :=
  ⟨rfl, by decide, by decide, rfl⟩
theorem witness_StepFetchOutOfBoundsAborts :
    (fun s : State => s.run = .running ∧ s.pc.toNat < 0x200 + s.romlength ∧ 0xFFF ≤ s.pc.toNat)
      { start with pc := 0xFFF#16, romlength := 3584 } := ⟨rfl, by decide, by decide⟩
theorem witness_StepHaltsPastProgram :
    (fun s : State => s.run = .running ∧ 0x200 + s.romlength ≤ s.pc.toNat) start ∧
    (fun s : State => s.run = .paused ∧ 0x200 + s.romlength ≤ s.pc.toNat) { start with run := .paused } :=
  ⟨⟨rfl, by decide⟩, rfl, by decide⟩
theorem witness_TerminalRunStatesHaveNoStep :
    ({ start with run := .halted } : State).run = .halted ∧
    ({ start with run := .aborted .stackUnderflow } : State).run = .aborted .stackUnderflow ∧
    start.run = .running ∧ ({ start with run := .paused } : State).run = .paused := ⟨rfl, rfl, rfl, rfl⟩
theorem witness_TickPollsPresentsAndCounts :
    ({ start with run := .halted } : State).run ≠ .running ∧ ({ start with keyWaiting := true } : State).keyWaiting = true ∧
    start.run = .running ∧ start.keyWaiting = false ∧
    (polling true false start).drawPoll.1.running = false ∧
    ((polling true true start).drawPoll.1.running = true ∧ (polling true true start).drawPoll.1.paused = true) ∧
    (polling false true start).drawPoll.1.running = true ∧ (polling false true start).drawPoll.1.paused = false ∧
    (polling false true start).drawFlag = false ∧ ({ start with drawFlag := true } : State).drawFlag = true := by decide
theorem witness_PausedTickOnlyPolls :
    (fun s : State => s.run = .paused ∧ s.pc.toNat < 0x200 + s.romlength)
      { running1 0x0000 with run := .paused } ∧
    (polling true false start).drawPoll.1.running = false ∧
    ((polling true true start).drawPoll.1.running = true ∧ (polling true true start).drawPoll.1.paused = true) ∧
    (polling false true start).drawPoll.1.running = true ∧ (polling false true start).drawPoll.1.paused = false :=
  ⟨⟨rfl, by decide⟩, by decide⟩
theorem witness_TimerEventEveryRatioTicks :
    (fun s : State => 1 ≤ s.cfg.timerRatio ∧ s.tickCtr = 0)
      { start with cfg := ⟨.wrap, .wrap, 1, 3, .sixteen, .x, false, false⟩ } := ⟨by decide, rfl⟩

theorem witness_ConstructLoadsFontAndProgram :
    3584 < (List.replicate 3585 (0#8 : Byte)).length ∧ (List.replicate 3584 (0#8 : Byte)).length ≤ 3584 ∧
    (config .clip .fault).Legal := by
  rw [List.length_replicate, List.length_replicate]; decide

/-- The invariants hold of a machine about to run a word, whose tick completes. -/
theorem witness_StepKeepsInvariant :
    (running1 0x6A7F).Inv ∧ (running1 0x6A7F).PcInv ∧ ∃ t, step (running1 0x6A7F) = .next t :=
  ⟨⟨by decide, by decide, by decide, by decide, by decide, by decide⟩, ⟨by decide, by decide⟩, _, rfl⟩
theorem witness_ConfigurationAndLengthNeverChange : ∃ t, step (running1 0x2300) = .next t := ⟨_, rfl⟩
theorem witness_EventSequenceOnlyGrows : ∃ t, step (running1 0x8018) = .next t := ⟨_, rfl⟩
/-- Two states that differ in the ring and the Present events, of which one tick of the machine and one of the machine
without its compositor both complete. -/
theorem witness_CompositorNeverFeedsBack :
    (running1 0x00E0).withoutCompositor =
      ({ running1 0x00E0 with hist := [], events := [.present Frame.blank] } : State).withoutCompositor ∧
    (∃ t, step (running1 0x00E0) = .next t) ∧
    ∃ t, stepNoCompose { running1 0x00E0 with hist := [], events := [.present Frame.blank] } = .next t :=
  ⟨rfl, ⟨_, rfl⟩, _, rfl⟩
theorem witness_FetchWordRunsNext : ({ start with pc := 0xFFE#16 } : State).pc.toNat ≤ 0xFFE := by decide

theorem witness_FatalConditionIsPrecise :
    start.run = .running ∧ ∃ t, exec .ret start = .next t ∧ t.run = .aborted .stackUnderflow := ⟨rfl, _, rfl, rfl⟩
theorem witness_FatalConditionsAreTheTabulated :
    start.run = .running ∧ start.sp ≤ start.cfg.stackLimit.toNat ∧ fatalCondition .ret start = some .stackUnderflow := by
  decide
theorem witness_OnlyTheNamedInstructionsWrite :
    (∃ t, exec (.sys 0) start = .next t) ∧ (∀ x, Instr.sys 0 ≠ .ldB x ∧ Instr.sys 0 ≠ .storeRegs x) ∧
    Instr.sys 0 ≠ .cls ∧ (∀ x y n, Instr.sys 0 ≠ .drw x y n) ∧
    (∀ nnn x, Instr.sys 0 ≠ .ldI nnn ∧ Instr.sys 0 ≠ .addI x ∧ Instr.sys 0 ≠ .ldF x) ∧ Instr.sys 0 ≠ .ret ∧
    (∀ nnn, Instr.sys 0 ≠ .call nnn) ∧ (∀ x, Instr.sys 0 ≠ .ldDtVx x) ∧ ∀ x, Instr.sys 0 ≠ .ldStVx x := by
  refine ⟨⟨_, rfl⟩, ?_, ?_, ?_, ?_, ?_, ?_, ?_, ?_⟩ <;> simp
theorem witness_OtherRegistersKeepTheirValue :
    (∃ t, exec (.addReg 0 1) start = .next t) ∧ 1#4 ∉ destinations (.addReg 0 1) := ⟨⟨_, rfl⟩, by decide⟩

theorem witness_ReturnPopsTheCallAddress :
    ({ start with sp := 16 } : State).sp = (15 : Fin 16).val + 1 ∧ ({ start with sp := 1 } : State).sp = (0 : Fin 16).val + 1 ∧
    start.sp = 0 := by decide
theorem witness_SystemCallDoesNothing :
    fieldFamily 0x00E1#16 = 0x0#4 ∧ 0x00E1#16 ≠ 0x00E0#16 ∧ 0x00E1#16 ≠ 0x00EE#16 := by decide
theorem witness_JumpSetsThePc :
    fieldFamily 0x1FFF#16 = 0x1#4 ∧ 0x200 ≤ (0x200#12).toNat ∧ (0x1FF#12).toNat < 0x200 := by decide
theorem witness_CallPushesItsOwnAddress :
    ({ start with sp := 15 } : State).sp < start.cfg.stackLimit.toNat ∧ 0x200 ≤ (0xFFF#12).toNat ∧
    ({ start with sp := 16 } : State).sp = start.cfg.stackLimit.toNat ∧ (0x000#12).toNat < 0x200 := by decide
theorem witness_ReturnUndoesCall :
    start.sp < start.cfg.stackLimit.toNat ∧ 0x200 ≤ (0x300#12).toNat ∧
    ∃ t, exec (.call 0x300) start = .next t ∧ t.sp = 1 ∧ t.stack = start.stack.set 0 0x200#16 :=
  ⟨by decide, by decide, _, rfl, rfl, rfl⟩
theorem witness_fields_of_words :
    fieldFamily 0x332A#16 = 0x3#4 ∧ fieldFamily 0x432A#16 = 0x4#4 ∧ fieldFamily 0xB210#16 = 0xB#4 ∧
    fieldFamily 0x6A7F#16 = 0x6#4 ∧ fieldFamily 0x7305#16 = 0x7#4 ∧
    fieldFamily 0xC30F#16 = 0xC#4 ∧
    fieldFamily 0xA123#16 = 0xA#4 ∧ (fieldFamily 0xF01E#16 = 0xF#4 ∧ fieldKK 0xF01E#16 = 0x1E#8) := by decide
theorem witness_AddRegistersWithCarry : (0x0#4 : RegIdx) ≠ regF := by decide
theorem witness_SubtractWithNotBorrow : (0xE#4 : RegIdx) ≠ regF := by decide

/-- Under each SHIFT_SOURCE there is the value it names: V2 = 4, V3 = 0xFF. -/
theorem witness_ShiftsMoveOneBitOut :
    (fun (s : State) (v : Byte) => (s.cfg.shiftSource = .x → v = s.reg 2) ∧ (s.cfg.shiftSource = .y → v = s.reg 3))
      (withRegs [(2, 4), (3, 0xFF)]) 4#8 ∧
    (fun (s : State) (v : Byte) => (s.cfg.shiftSource = .x → v = s.reg 2) ∧ (s.cfg.shiftSource = .y → v = s.reg 3))
      { withRegs [(2, 4), (3, 0xFF)] with cfg := ⟨.wrap, .wrap, 1, 1, .sixteen, .y, false, false⟩ } 0xFF#8 ∧
    (2#4 : RegIdx) ≠ regF := by decide

theorem witness_BcdStoresThreeDigits :
    effectiveAddress { start with I := 0xFFD#16 } 0 = 0xFFD ∧ 0xFFD + 2 ≤ 0xFFF := by decide
theorem witness_BlockStoreWritesRegisters :
    effectiveAddress { start with I := 0xFF0#16 } 0 = 0xFF0 ∧ 0xFF0 + (0xF#4).toNat ≤ 0xFFF := by decide
theorem witness_BlockLoadReadsRegisters :
    effectiveAddress { start with I := 0xFFF#16 } 0 = 0xFFF ∧ 0xFFF + (0x0#4).toNat ≤ 0xFFF := by decide
theorem witness_BlockStoreThenLoadRestores :
    ({ start with I := 0xFF0#16 } : State).I.toNat + (0xF#4).toNat ≤ 0xFFF := by decide

theorem witness_SkipOnKey :
    ((withRegs [(2, 15)]).reg 2).toNat < 16 ∧ 16 ≤ ((withRegs [(2, 16)]).reg 2).toNat := by decide
theorem witness_KeyWaitStoresTheKey :
    (fun s : State => s.drawKeyWait.1 = .answered 15 false) { start with ports := ⟨[], [], [.answered 15 false], [], 0⟩ } ∧
    (fun s : State => s.drawKeyWait.1 = .answered 0 true) { start with ports := ⟨[], [], [.answered 0 true], [], 0⟩ } ∧
    (fun s : State => s.drawKeyWait.1 = .pending) { start with ports := ⟨[], [], [.pending], [], 0⟩ } ∧
    (fun s : State => s.drawKeyWait.1 = .answered 16 false) { start with ports := ⟨[], [], [.answered 16 false], [], 0⟩ } ∧
    (15#8).toNat < 16 ∧ 16 ≤ (16#8).toNat := by decide
theorem witness_KeyWaitHoldsTheTick :
    (fun s : State => s.run = .running ∧ s.pc.toNat < 0x200 + s.romlength ∧ s.pc.toNat + 1 ≤ 0xFFF ∧
      decode [s.byteAt s.pc.toNat, s.byteAt (s.pc.toNat + 1)] = .ok (.ldVxK 5, []) ∧ s.drawKeyWait.1 = .pending)
      { running1 0xF50A with ports := ⟨[], [], [.pending], [], 0⟩ } ∧
    (fun s : State => s.drawKeyWait.1 = .answered 3 true)
      { running1 0xF50A with ports := ⟨[], [], [.answered 3 true], [], 0⟩ } :=
  ⟨⟨rfl, by decide, by decide, rfl, rfl⟩, rfl⟩

/-- An origin out of range on both wrapping axes, and a corner that runs off both edges under clipping ones. -/
theorem witness_DrawTogglesTheSpritesPixels :
    (fun (s : State) (cx cy rows : Nat) =>
      (64 ≤ (s.reg 0).toNat → s.cfg.xwrap = .wrap) ∧ (32 ≤ (s.reg 1).toNat → s.cfg.ywrap = .wrap) ∧
      cx = (s.reg 0).toNat % 64 ∧ cy = (s.reg 1).toNat % 32 ∧
      rows = (if s.cfg.ywrap = .wrap then (15#4).toNat else min (15#4).toNat (32 - cy)) ∧
      (rows = 0 ∨ effectiveAddress s rows ≤ 0x1000))
      { drawing .wrap .wrap 64 32 [0xFF] with I := 0xFF1#16 } 0 0 15 ∧
    (fun (s : State) (cx cy rows : Nat) =>
      (64 ≤ (s.reg 0).toNat → s.cfg.xwrap = .wrap) ∧ (32 ≤ (s.reg 1).toNat → s.cfg.ywrap = .wrap) ∧
      cx = (s.reg 0).toNat % 64 ∧ cy = (s.reg 1).toNat % 32 ∧
      rows = (if s.cfg.ywrap = .wrap then (15#4).toNat else min (15#4).toNat (32 - cy)) ∧
      (rows = 0 ∨ effectiveAddress s rows ≤ 0x1000))
      { drawing .clip .fault 63 31 [0xFF] with I := 0xFFF#16 } 63 31 1 := by decide
/-- A sprite pixel that hits, one that would land past the right edge, and a lit target. -/
theorem witness_SpriteHits :
    SpriteHits (drawing .wrap .wrap 63 31 [0xFF]) 63 31 1 0 31 ∧
    ¬ SpriteHits (drawing .wrap .wrap 63 31 [0xFF]) 63 31 1 8 31 ∧
    ({ start with fb := Frame.blank.setByte 31 0 0x80#8 } : State).fb.pixel 0 31 = true := by
  refine ⟨⟨1, 0, by decide⟩, ?_, by decide⟩
  rintro ⟨j, r, hj, hr, -, h, -⟩
  simp only [pixelTarget] at h
  split at h
  · simp at h; omega
  · split at h
    · simp at h; omega
    · cases h
theorem witness_ClippedDrawIsSuppressed :
    (fun s : State => DrawClipped s (s.reg 0) (s.reg 1) ∧ ¬ (64 ≤ (s.reg 0).toNat ∧ s.cfg.xwrap = .fault) ∧
      ¬ (32 ≤ (s.reg 1).toNat ∧ s.cfg.ywrap = .fault)) (drawing .clip .fault 64 31 []) ∧
    (fun s : State => DrawClipped s (s.reg 0) (s.reg 1) ∧ ¬ (64 ≤ (s.reg 0).toNat ∧ s.cfg.xwrap = .fault) ∧
      ¬ (32 ≤ (s.reg 1).toNat ∧ s.cfg.ywrap = .fault)) (drawing .fault .clip 63 32 []) :=
  ⟨⟨.inl (by decide), by decide, by decide⟩, .inr (by decide), by decide, by decide⟩
theorem witness_DrawingTwiceRestoresTheScreen :
    (0#4 : RegIdx) ≠ regF ∧ (1#4 : RegIdx) ≠ regF ∧
    fatalCondition (.drw 0 1 15) (drawing .wrap .wrap 255 255 [0xC0]) = none := by decide
theorem witness_PresentationBlendsTheRing : 1 ≤ start.cfg.depth ∧ start.hist.length = start.cfg.depth := by decide

end Sys2Proof.Tests
end

section
/-! PROOFS. What no instruction writes, and what no tick writes: the configuration and the recorded program length
(spec/00_scope.md R6, spec/10_state.md R21). -/

namespace Sys2Proof.Machine

/-! ### The fields no instruction writes -/

/-- `t` agrees with `s` on the four fields that no instruction writes: the configuration (R6), the recorded program
length (R21), the timer counter (R24) and the history ring (R26). -/
structure SameUnwrittenFields (s t : State) : Prop where
  cfg : t.cfg = s.cfg
  romlength : t.romlength = s.romlength
  tickCtr : t.tickCtr = s.tickCtr
  hist : t.hist = s.hist

/-- A fatal condition writes none of them. -/
theorem sameUnwrittenFields_raiseFatal (c : Cause) (w : Option Word) (s : State) :
    SameUnwrittenFields s (raiseFatal c w s) := ⟨rfl, rfl, rfl, rfl⟩

/-- A checked access either runs its body or raises MemoryBounds. -/
theorem withBounds_cases (base count : Nat) (w : Option Word) (body : State → State) (s : State) :
    withBounds base count w body s = body s ∨
      ∃ a, withBounds base count w body s = raiseFatal (.memoryBounds a) w s := by
  unfold withBounds
  split
  · next a _ => exact .inr ⟨a, rfl⟩
  · exact .inl rfl

/-- A checked access writes none of them where its body writes none. -/
theorem sameUnwrittenFields_withBounds {base count : Nat} {w : Option Word} {body : State → State} {s : State}
    (hbody : SameUnwrittenFields s (body s)) : SameUnwrittenFields s (withBounds base count w body s) := by
  obtain h | ⟨a, h⟩ := withBounds_cases base count w body s
  · rwa [h]
  · rw [h]; exact sameUnwrittenFields_raiseFatal _ w s

/-- No answer of the host to a key wait writes any of them. -/
theorem sameUnwrittenFields_finishKeyWait (s : State) (x : RegIdx) (a : KeyWaitAnswer) :
    SameUnwrittenFields s (s.finishKeyWait x a) := by
  cases a with
  | pending => exact ⟨rfl, rfl, rfl, rfl⟩
  | answered key quit => cases quit <;> exact ⟨rfl, rfl, rfl, rfl⟩

/-- No instruction writes any of them. The instructions named below branch: on a fatal condition, on the origin policy
or on the host's answer; every other one is a single update. -/
theorem exec_sameUnwrittenFields {i : Instr} {s t : State} (h : exec i s = .next t) : SameUnwrittenFields s t := by
  cases i
  case ldVxK x =>
    simp only [exec, execLdVxK] at h
    split at h
    · cases h
    · obtain rfl := Host.Outcome.next.inj h
      obtain ⟨hcfg, hrom, hctr, hhist⟩ := sameUnwrittenFields_finishKeyWait s.drawKeyWait.2 x s.drawKeyWait.1
      exact ⟨hcfg, hrom, hctr, hhist⟩
  all_goals obtain rfl := Host.Outcome.next.inj h
  case ret | jp | skp | sknp =>
    split
    · exact ⟨rfl, rfl, rfl, rfl⟩
    · exact ⟨rfl, rfl, rfl, rfl⟩
  case call =>
    split
    · exact sameUnwrittenFields_raiseFatal _ _ s
    · split
      · exact ⟨rfl, rfl, rfl, rfl⟩
      · exact sameUnwrittenFields_raiseFatal _ _ s
  case drw =>
    split
    · exact sameUnwrittenFields_raiseFatal _ _ s
    · exact sameUnwrittenFields_raiseFatal _ _ s
    · exact ⟨rfl, rfl, rfl, rfl⟩
    · exact sameUnwrittenFields_withBounds ⟨rfl, rfl, rfl, rfl⟩
  case ldB | storeRegs | loadRegs => exact sameUnwrittenFields_withBounds ⟨rfl, rfl, rfl, rfl⟩
  all_goals exact ⟨rfl, rfl, rfl, rfl⟩

/-- Nor does the interpretation of one word: a fetch fault and an unrecognised word touch only `pc`,
the run state and the events (R95, R106). -/
theorem State.interpret_sameUnwrittenFields {s t : State} (h : s.interpret = .next t) : SameUnwrittenFields s t := by
  obtain ⟨-, rfl⟩ | ⟨w, -, -, ⟨i, -, hexec⟩ | ⟨-, rfl⟩⟩ := State.interpret_cases h
  · exact sameUnwrittenFields_raiseFatal _ none s
  · exact exec_sameUnwrittenFields hexec
  · exact ⟨rfl, rfl, rfl, rfl⟩

/-! ### The run loop's part of a tick: `withRunLoopOf` takes neither field from steps 4 to 6 -/

@[simp] theorem State.finishTick_cfg (s : State) : s.finishTick.cfg = s.cfg := by
  rw [← s.withRunLoopOf_finishTick]; rfl

@[simp] theorem State.finishTick_romlength (s : State) : s.finishTick.romlength = s.romlength := by
  rw [← s.withRunLoopOf_finishTick]; rfl

/-! ### The obligation -/

/-- Settles O25: neither the instruction nor the run loop's part of a tick writes the configuration or the length. -/
theorem configurationAndLengthNeverChange : Obligations.ConfigurationAndLengthNeverChange := by
  unfold Obligations.ConfigurationAndLengthNeverChange
  intro s t h
  obtain ⟨-, -, rfl⟩ | ⟨-, -, u, hu, rfl⟩ | ⟨-, -, rfl⟩ := step_cases h
  · exact ⟨s.halt_cfg, s.halt_romlength⟩
  · obtain ⟨hcfg, hrom, -, -⟩ := State.interpret_sameUnwrittenFields hu
    simp [hcfg, hrom]
  · simp

end Sys2Proof.Machine
end

section
/-! PROOFS. What one interpreted instruction can do to memory, the stack, `pc` and the event sequence
(spec/10_state.md R14, R15, R18, R27): one inversion lemma, from which the invariants of a tick follow. -/

namespace Sys2Proof.Machine

/-! ### The effect of an instruction -/

/-- The program counters a completed instruction other than a CALL or a RET can leave (R14, R56 to R62, R86). -/
inductive NextPc (pc : Word) : Word → Prop where
  /-- a key wait with no key yet, or with a quit -/
  | stay : NextPc pc pc
  | next : NextPc pc (pc + 2#16)
  | skip : NextPc pc (pc + 4#16)
  | jump (nnn : Addr12) : NextPc pc (address16 nnn)
  | jumpV0 (nnn : Addr12) (v0 : Byte) : NextPc pc (offsetTarget nnn v0)

/-- What the interpretation of one instruction can do to memory, `sp`, the stack, `pc` and the events. -/
inductive Effect (s : State) : State → Prop where
  /-- a fatal condition, in the fetch or in the instruction (R108) -/
  | fatal (c : Cause) (w : Option Word) : Effect s (raiseFatal c w s)
  /-- an unrecognised word (R95) -/
  | unrecognised (w : Word) : Effect s (execUnrecognised w s)
  /-- a CALL that finds a free slot (R57) -/
  | call (nnn : Addr12) (hfree : s.sp < s.cfg.stackLimit.toNat) : Effect s ((s.push s.pc).setPc (address16 nnn))
  /-- a RET that finds a frame (R54) -/
  | ret (hframe : s.sp ≠ 0) : Effect s (s.pop.setPc (s.topOfStack + 2#16))
  /-- a BCD or block store inside memory (R33, R92, R93) -/
  | store (bytes : List Byte) (hbounds : s.I.toNat + bytes.length ≤ 4096) : Effect s (s.storeAtIndex bytes)
  /-- every other completed instruction -/
  | plain {t : State} (hmem : t.mem = s.mem) (hsp : t.sp = s.sp) (hstack : t.stack = s.stack)
      (hevents : t.events = s.events) (hpc : NextPc s.pc t.pc) : Effect s t

theorem nextPc_skipIf (s : State) (b : Bool) : NextPc s.pc (s.skipIf b).pc := by
  cases b
  · exact .next
  · exact .skip

/-- A checked access is a fatal condition or, inside memory, the effect of its body (R33). -/
theorem effect_withBounds {base count : Nat} {w : Option Word} {body : State → State} {s : State}
    (hbody : base + count ≤ 4096 ∨ count = 0 → Effect s (body s)) : Effect s (withBounds base count w body s) := by
  by_cases hb : base + count ≤ 4096 ∨ count = 0
  · rw [withBounds_of_le hb]; exact hbody hb
  · rw [withBounds_of_lt (by omega) (by omega)]; exact .fatal _ w

/-- Whatever the host answers, a key wait is plain: it stays, or moves on by 2 (R86). -/
theorem effect_finishKeyWait (s : State) (x : RegIdx) (a : KeyWaitAnswer) :
    Effect s (s.drawKeyWait.2.finishKeyWait x a) := by
  cases a with
  | pending => exact .plain rfl rfl rfl rfl .stay
  | answered key quit =>
    cases quit
    · exact .plain rfl rfl rfl rfl .next
    · exact .plain rfl rfl rfl rfl .stay

/-- What an instruction can do. -/
theorem exec_effect {i : Instr} {s t : State} (h : exec i s = .next t) : Effect s t := by
  cases i
  case ldVxK x =>
    simp only [exec, execLdVxK] at h
    split at h
    · cases h
    · obtain rfl := Host.Outcome.next.inj h
      exact effect_finishKeyWait s x _
  all_goals obtain rfl := Host.Outcome.next.inj h
  case ret =>
    split
    · exact .fatal _ _
    · next hframe => exact .ret hframe
  case jp nnn =>
    split
    · exact .plain rfl rfl rfl rfl (.jump nnn)
    · exact .fatal _ _
  case call nnn =>
    split
    · exact .fatal _ _
    · next hfull =>
      split
      · exact .call nnn (by simpa [State.stackFull] using hfull)
      · exact .fatal _ _
  case skp | sknp =>
    split
    · exact .plain rfl rfl rfl rfl (nextPc_skipIf _ _)
    · exact .fatal _ _
  case seImm | sneImm | seReg | sneReg => exact .plain rfl rfl rfl rfl (nextPc_skipIf _ _)
  case jpV0 nnn => exact .plain rfl rfl rfl rfl (.jumpV0 nnn _)
  case drw =>
    split
    · exact .fatal _ _
    · exact .fatal _ _
    · exact .plain rfl rfl rfl rfl .next
    · exact effect_withBounds fun _ => .plain rfl rfl rfl rfl .next
  case ldB x => exact effect_withBounds fun hb => .store _ (hb.resolve_right (by decide))
  case storeRegs x =>
    refine effect_withBounds fun hb => .store _ ?_
    rw [State.length_regsUpTo]
    exact hb.resolve_right (Nat.succ_ne_zero _)
  case loadRegs => exact effect_withBounds fun _ => .plain rfl rfl rfl rfl .next
  all_goals exact .plain rfl rfl rfl rfl .next

/-- What the interpretation of one fetched word can do. -/
theorem State.interpret_effect {s t : State} (h : s.interpret = .next t) : Effect s t := by
  obtain ⟨-, rfl⟩ | ⟨w, -, -, ⟨i, -, hexec⟩ | ⟨-, rfl⟩⟩ := State.interpret_cases h
  · exact .fatal _ none
  · exact exec_effect hexec
  · exact .unrecognised w

end Sys2Proof.Machine
end

section
/-! PROOFS. The invariants of a tick (spec/10_state.md R14, R15, R18, R21, R24, R26, R27). -/

namespace Sys2Proof.Machine

/-! ### The ranges of the state: `State.Inv` -/

/-- The ranges carry over where none of the four unwritten fields changes and memory and `sp` keep theirs. -/
theorem State.Inv.of_sameUnwrittenFields {s t : State} (h : s.Inv) (hsame : SameUnwrittenFields s t)
    (hmem : t.mem.wf = true) (hsp : t.sp ≤ s.cfg.stackLimit.toNat) : t.Inv := by
  obtain ⟨hcfg, hrom, hctr, hhist⟩ := hsame
  exact ⟨hmem, hcfg ▸ hsp, hrom ▸ h.romlength_le, hcfg ▸ h.cfg_legal, by rw [hcfg, hctr]; exact h.tickCtr_lt,
    by rw [hcfg, hhist]; exact h.hist_length⟩

/-- Only a store writes memory, and it writes inside it. -/
theorem Effect.mem_wf {s t : State} (he : Effect s t) (h : s.mem.wf = true) : t.mem.wf = true := by
  cases he with
  | fatal | unrecognised | call | ret => exact h
  | store bytes hbounds => exact Memory.wf_writeBytes bytes _ h hbounds
  | plain hmem => rwa [hmem]

/-- Only a CALL raises `sp`, and it finds a free slot. -/
theorem Effect.sp_le {s t : State} (he : Effect s t) (h : s.sp ≤ s.cfg.stackLimit.toNat) :
    t.sp ≤ s.cfg.stackLimit.toNat := by
  cases he with
  | fatal | unrecognised | store => exact h
  | call nnn hfree => exact hfree
  | ret => exact (Nat.sub_le _ _).trans h
  | plain _ hsp => rwa [hsp]

theorem State.interpret_inv {s t : State} (h : s.Inv) (hi : s.interpret = .next t) : t.Inv :=
  have he := State.interpret_effect hi
  h.of_sameUnwrittenFields (State.interpret_sameUnwrittenFields hi) (he.mem_wf h.mem_wf) (he.sp_le h.sp_le)

theorem State.halt_inv {s : State} (h : s.Inv) : s.halt.Inv :=
  h.of_sameUnwrittenFields ⟨rfl, rfl, rfl, rfl⟩ h.mem_wf h.sp_le

theorem State.beginTick_inv {s : State} (h : s.Inv) : s.beginTick.Inv :=
  h.of_sameUnwrittenFields ⟨rfl, rfl, rfl, rfl⟩ h.mem_wf h.sp_le

theorem State.pollHost_inv {s : State} (h : s.Inv) : s.pollHost.Inv :=
  h.of_sameUnwrittenFields ⟨rfl, rfl, rfl, rfl⟩ h.mem_wf h.sp_le

/-- The ring that takes a new frame drops its oldest (R26, R100). -/
theorem State.presentIfDrawn_inv {s : State} (h : s.Inv) : s.presentIfDrawn.Inv := by
  unfold State.presentIfDrawn
  split
  · exact { h with hist_length := length_advanceRing s.fb h.hist_length }
  · exact h

theorem State.timerEvent_inv {s : State} (h : s.Inv) : s.timerEvent.Inv := by
  unfold State.timerEvent
  split
  · exact h.of_sameUnwrittenFields ⟨rfl, rfl, rfl, rfl⟩ h.mem_wf h.sp_le
  · exact h.of_sameUnwrittenFields ⟨rfl, rfl, rfl, rfl⟩ h.mem_wf h.sp_le

/-- The counter goes back to 0 when it would reach TIMER_RATIO (R24). -/
theorem State.countTick_inv {s : State} (h : s.Inv) : s.countTick.Inv := by
  unfold State.countTick
  split
  · exact State.timerEvent_inv { h with tickCtr_lt := h.cfg_legal.2 }
  · next hne => exact { h with tickCtr_lt := Nat.lt_of_le_of_ne h.tickCtr_lt hne }

theorem State.countIfRunning_inv {s : State} (h : s.Inv) : s.countIfRunning.Inv := by
  unfold State.countIfRunning
  split
  · exact State.countTick_inv h
  · exact h

theorem State.finishTick_inv {s : State} (h : s.Inv) : s.finishTick.Inv :=
  State.countIfRunning_inv (State.presentIfDrawn_inv (State.pollHost_inv h))

theorem State.endTick_inv {s : State} (h : s.Inv) : s.endTick.Inv := by
  rw [State.endTick_eq]
  split
  · exact State.finishTick_inv h
  · exact h

/-- Settles O18: the instruction and each part of the run loop keep the ranges. -/
theorem stepKeepsInvariant : Obligations.StepKeepsInvariant := by
  unfold Obligations.StepKeepsInvariant
  intro s t h hstep
  obtain ⟨-, -, rfl⟩ | ⟨-, -, u, hu, rfl⟩ | ⟨-, -, rfl⟩ := step_cases hstep
  · exact State.halt_inv h
  · exact State.endTick_inv (State.interpret_inv (State.beginTick_inv h) hu)
  · exact State.finishTick_inv (State.beginTick_inv h)

/-! ### The program counter and the return addresses: `State.PcInv` -/

@[simp] theorem State.finishTick_pc (s : State) : s.finishTick.pc = s.pc := by
  rw [← s.withRunLoopOf_finishTick]; rfl

@[simp] theorem State.finishTick_stack (s : State) : s.finishTick.stack = s.stack := by
  rw [← s.withRunLoopOf_finishTick]; rfl

theorem State.PcInv.congr {s t : State} (h : s.PcInv) (hpc : t.pc = s.pc) (hstack : t.stack = s.stack) : t.PcInv :=
  ⟨hpc ▸ h.pc_le, hstack ▸ h.stack_lt⟩

/-- An instruction is only executed below the end of the program, so inside memory (R21, R132). -/
theorem State.pc_lt_of_pastProgram_eq_false {s : State} (h : s.Inv) (hp : s.pastProgram = false) :
    s.pc.toNat < 0x1000 := by
  have hrom := h.romlength_le
  have hpast : ¬ 0x200 + s.romlength ≤ s.pc.toNat := by rw [← s.pastProgram_iff, hp]; decide
  omega

/-- From inside memory no sum wraps; the farthest target is `Bnnn`'s, 0xFFF + 0xFF (R14, R62). -/
theorem NextPc.toNat_le {pc a : Word} (h : NextPc pc a) (hpc : pc.toNat < 0x1000) : a.toNat ≤ 0x10FE := by
  cases h with
  | stay => omega
  | next => bv_omega
  | skip => bv_omega
  | jump nnn => simp only [address16]; bv_omega
  | jumpV0 nnn v0 => simp only [offsetTarget, address16]; bv_omega

theorem State.topOfStack_lt {s : State} (h : s.PcInv) (hframe : s.sp ≠ 0) (hsp : s.sp ≤ 16) :
    s.topOfStack.toNat < 0x1000 := by
  obtain ⟨k, hk⟩ := Nat.exists_eq_succ_of_ne_zero hframe
  rw [State.topOfStack_eq s k (by omega) hk]
  exact h.stack_lt ⟨k, by omega⟩

/-- An instruction executed inside memory pushes an address inside memory. -/
theorem State.stack_push_lt {s : State} (h : s.PcInv) (hpc : s.pc.toNat < 0x1000) (k : Fin 16) :
    ((s.push s.pc).stack[k.val]).toNat < 0x1000 := by
  simp only [State.push_stack, Vector.getElem_setIfInBounds]
  split
  · exact hpc
  · exact h.stack_lt k

/-- What an instruction executed inside memory does to `pc` and the stack keeps both bounds. -/
theorem Effect.pcInv {s t : State} (he : Effect s t) (h : s.PcInv) (hsp : s.sp ≤ 16) (hpc : s.pc.toNat < 0x1000) :
    t.PcInv := by
  cases he with
  | fatal => exact ⟨h.pc_le, h.stack_lt⟩
  | unrecognised | store => exact ⟨NextPc.next.toNat_le hpc, h.stack_lt⟩
  | call nnn => exact ⟨(NextPc.jump nnn).toNat_le hpc, State.stack_push_lt h hpc⟩
  | ret hframe => exact ⟨NextPc.next.toNat_le (State.topOfStack_lt h hframe hsp), h.stack_lt⟩
  | plain _ _ hstack _ hnext => exact ⟨hnext.toNat_le hpc, hstack ▸ h.stack_lt⟩

/-- Settles O19: only an instruction inside memory writes `pc` or the stack. -/
theorem stepKeepsProgramCounterBound : Obligations.StepKeepsProgramCounterBound := by
  unfold Obligations.StepKeepsProgramCounterBound
  intro s t h hpcInv hstep
  obtain ⟨-, -, rfl⟩ | ⟨-, hp, u, hu, rfl⟩ | ⟨-, -, rfl⟩ := step_cases hstep
  · exact hpcInv.congr s.halt_pc s.halt_stack
  · have hsp : s.sp ≤ 16 := h.sp_le.trans (StackLimit.toNat_le _)
    have hbegin : s.beginTick.PcInv := hpcInv.congr s.beginTick_pc s.beginTick_stack
    have hpc : s.pc.toNat < 0x1000 := State.pc_lt_of_pastProgram_eq_false h hp
    have hinterpret : u.PcInv := (State.interpret_effect hu).pcInv hbegin hsp hpc
    exact hinterpret.congr u.endTick_pc u.endTick_stack
  · exact hpcInv.congr s.beginTick.finishTick_pc s.beginTick.finishTick_stack

/-! ### The event sequence (R27) -/

theorem Effect.events_prefix {s t : State} (he : Effect s t) : s.events <+: t.events := by
  cases he with
  | fatal | unrecognised => exact List.prefix_append _ _
  | call | ret | store => exact List.prefix_rfl
  | plain _ _ _ hevents => rw [hevents]

theorem State.presentIfDrawn_events_prefix (s : State) : s.events <+: s.presentIfDrawn.events := by
  unfold State.presentIfDrawn
  split
  · exact List.prefix_append _ _
  · exact List.prefix_rfl

theorem State.timerEvent_events_prefix (s : State) : s.events <+: s.timerEvent.events := by
  unfold State.timerEvent
  split
  · exact List.prefix_rfl
  · exact List.prefix_append _ _

theorem State.countIfRunning_events_prefix (s : State) : s.events <+: s.countIfRunning.events := by
  unfold State.countIfRunning State.countTick
  split
  · split
    · exact State.timerEvent_events_prefix { s with tickCtr := 0 }
    · exact List.prefix_rfl
  · exact List.prefix_rfl

theorem State.finishTick_events_prefix (s : State) : s.events <+: s.finishTick.events :=
  s.pollHost.presentIfDrawn_events_prefix.trans s.pollHost.presentIfDrawn.countIfRunning_events_prefix

theorem State.endTick_events_prefix (s : State) : s.events <+: s.endTick.events := by
  rw [State.endTick_eq]
  split
  · exact s.finishTick_events_prefix
  · exact List.prefix_rfl

/-- Settles O26: the instruction and each part of the run loop only append. -/
theorem eventSequenceOnlyGrows : Obligations.EventSequenceOnlyGrows := by
  unfold Obligations.EventSequenceOnlyGrows
  intro s t hstep
  obtain ⟨-, -, rfl⟩ | ⟨-, -, u, hu, rfl⟩ | ⟨-, -, rfl⟩ := step_cases hstep
  · exact List.prefix_rfl
  · exact (State.interpret_effect hu).events_prefix.trans u.endTick_events_prefix
  · exact s.beginTick.finishTick_events_prefix

end Sys2Proof.Machine
end

section
/-! PROOFS. The registers an instruction leaves as they were (spec/10_state.md R10, R11). -/

namespace Sys2Proof.Machine

/-- A checked access keeps a register its body keeps: a fatal condition writes none (R108). -/
theorem reg_withBounds {base count : Nat} {w : Option Word} {body : State → State} {s : State} {r : RegIdx}
    (hbody : (body s).reg r = s.reg r) : (withBounds base count w body s).reg r = s.reg r := by
  obtain h | ⟨a, h⟩ := withBounds_cases base count w body s
  · rwa [h]
  · rw [h, reg_raiseFatal]

/-- A key wait writes no register but its own (R86). -/
theorem State.reg_finishKeyWait_of_ne (s : State) {x r : RegIdx} (hr : r ≠ x) (a : KeyWaitAnswer) :
    (s.finishKeyWait x a).reg r = s.reg r := by
  cases a with
  | pending => rfl
  | answered key quit =>
    cases quit
    · exact (State.reg_setReg _ x r key).trans (if_neg hr)
    · rfl

/-- A draw writes no register but VF (R78). -/
theorem State.reg_drawSprite_of_ne (s : State) (cx : Fin 64) (cy : Fin 32) (rows : Nat) {r : RegIdx}
    (hr : r ≠ regF) : (s.drawSprite cx cy rows).reg r = s.reg r :=
  (State.reg_setReg _ regF r _).trans (if_neg hr)

/-- Nor does a suppressed one. -/
theorem State.reg_suppressDraw_of_ne (s : State) {r : RegIdx} (hr : r ≠ regF) : s.suppressDraw.reg r = s.reg r :=
  (State.reg_setReg _ regF r _).trans (if_neg hr)

/-- The destinations of a block load are V0 to Vx. -/
theorem mem_destinations_loadRegs (x r : RegIdx) : r ∈ destinations (.loadRegs x) ↔ r.toNat ≤ x.toNat := by
  simp only [destinations, List.mem_map, List.mem_range]
  constructor
  · rintro ⟨k, hk, rfl⟩
    rw [BitVec.toNat_ofNat]
    exact (Nat.mod_le _ _).trans (Nat.le_of_lt_succ hk)
  · intro h
    exact ⟨r.toNat, Nat.lt_succ_of_le h, (BitVec.ofNat_toNat 4 r).trans (BitVec.setWidth_eq r)⟩

/-- Settles O24, instruction by instruction: what is written is `V[x]`, VF, or V0 to Vx. -/
theorem otherRegistersKeepTheirValue : Obligations.OtherRegistersKeepTheirValue := by
  unfold Obligations.OtherRegistersKeepTheirValue
  intro i s t r h hr
  cases i
  case ldVxK x =>
    simp only [exec, execLdVxK] at h
    split at h
    · cases h
    · obtain rfl := Host.Outcome.next.inj h
      exact State.reg_finishKeyWait_of_ne _ (by simpa [destinations] using hr) _
  all_goals obtain rfl := Host.Outcome.next.inj h
  case loadRegs x =>
    rw [mem_destinations_loadRegs, Nat.not_le] at hr
    refine reg_withBounds ?_
    exact (getElem_loadRegisters s.mem _ _ s.v r.toNat r.isLt).trans (if_neg (by omega))
  case drw =>
    have hr : r ≠ regF := by simpa [destinations] using hr
    split
    · rfl
    · rfl
    · exact s.reg_suppressDraw_of_ne hr
    · exact reg_withBounds (s.reg_drawSprite_of_ne _ _ _ hr)
  case addReg | subReg | shr | subn | shl =>
    simp only [destinations, List.mem_cons, List.not_mem_nil, or_false, not_or] at hr
    rw [State.reg_advance, State.reg_setResultAndFlag, if_neg hr.2, if_neg hr.1]
  case ldImm | addImm | ldReg | orReg | andReg | xorReg | rnd | ldVxDt =>
    simp only [destinations, List.mem_cons, List.not_mem_nil, or_false] at hr
    exact (State.reg_setReg _ _ r _).trans (if_neg hr)
  case ldB | storeRegs => exact reg_withBounds rfl
  case ret | jp | skp | sknp =>
    split
    · rfl
    · rfl
  case call =>
    split
    · rfl
    · split
      · rfl
      · rfl
  all_goals rfl

end Sys2Proof.Machine
end

section
/-! PROOFS. The state at reset and after construction (spec/10_state.md R19, R28, spec/70_reset_and_hazards.md R128,
R129). -/

namespace Sys2Proof.Machine

/-! ### What memory holds before anything is written, and after a load -/

theorem length_fontTable : fontTable.length = 80 := rfl

/-- Nothing but the font is nonzero at reset (R28, R36). -/
theorem Memory.initial_eq_zero {a : Nat} (h : a < 0x050 ∨ 0x0A0 ≤ a) : Memory.initial a = 0#8 := by
  obtain hlow | hhigh := h
  · exact if_neg (Nat.not_le.2 hlow)
  · have hpast : fontTable.length ≤ a - 0x050 := by rw [length_fontTable]; omega
    exact (if_pos (by omega : 0x050 ≤ a)).trans (List.getD_eq_default _ _ hpast)

theorem Memory.initial_font {k : Nat} (h : k < fontTable.length) : Memory.initial (0x050 + k) = fontTable[k] := by
  rw [Memory.initial, if_pos (Nat.le_add_right _ _), Nat.add_sub_cancel_left, List.getD_eq_getElem _ _ h]

/-- The memory construction leaves: the font, then the rom (R128, R129). -/
def Memory.loaded (font : Vector Byte 80) (rom : List Byte) : Memory :=
  (Memory.writeBytes [] 0x050 font.toList).writeBytes 0x200 rom

theorem Memory.read_loaded_font (font : Vector Byte 80) (rom : List Byte) (k : Fin 80) :
    (Memory.loaded font rom).read (0x050 + k.val) = font[k.val] := by
  have := k.isLt
  rw [Memory.loaded, Memory.read_writeBytes_outside _ _ _ _ (.inl (by omega)), Memory.read_writeBytes,
    if_pos (Nat.le_add_right _ _), Nat.add_sub_cancel_left, List.getD_eq_getElem _ _ (by simp), Vector.getElem_toList]

theorem Memory.read_loaded_rom (font : Vector Byte 80) (rom : List Byte) {k : Nat} (h : k < rom.length) :
    (Memory.loaded font rom).read (0x200 + k) = rom[k] := by
  rw [Memory.loaded, Memory.read_writeBytes, if_pos (Nat.le_add_right _ _), Nat.add_sub_cancel_left,
    List.getD_eq_getElem _ _ h]

theorem Memory.read_loaded_outside (font : Vector Byte 80) (rom : List Byte) {a : Nat}
    (h : a < 0x050 ∨ (0x0A0 ≤ a ∧ a < 0x200) ∨ 0x200 + rom.length ≤ a) :
    (Memory.loaded font rom).read a = 0#8 := by
  have hfont : font.toList.length = 80 := font.length_toList
  rw [Memory.loaded, Memory.read_writeBytes_outside _ _ _ _ (by omega),
    Memory.read_writeBytes_outside _ _ _ _ (by omega)]
  exact Memory.initial_eq_zero (by omega)

/-- A rom that fits leaves memory in its canonical form. -/
theorem Memory.wf_loaded (font : Vector Byte 80) {rom : List Byte} (h : rom.length ≤ 3584) :
    (Memory.loaded font rom).wf = true := by
  have hfont : font.toList.length = 80 := font.length_toList
  exact Memory.wf_writeBytes _ _ (Memory.wf_writeBytes _ _ Memory.wf_nil (by omega)) (by omega)

/-! ### Reset -/

theorem State.reset_reg (x : RegIdx) : State.reset.reg x = 0#8 := Vector.getElem_replicate _

theorem State.reset_stack (k : Fin 16) : State.reset.stack[k.val] = 0#16 := Vector.getElem_replicate _

/-- TIMER_RATIO is open, but at least 1 (R6). -/
theorem resetConfig_legal : resetConfig.Legal := ⟨Nat.le_refl 1, Nat.succ_pos _⟩

theorem State.reset_pcInv : State.reset.PcInv where
  pc_le := by decide
  stack_lt k := by rw [State.reset_stack]; decide

/-- Settles O15, field by field. -/
theorem resetLeavesTheTabulatedValues : Obligations.ResetLeavesTheTabulatedValues := by
  unfold Obligations.ResetLeavesTheTabulatedValues
  exact ⟨State.reset_reg, rfl, rfl, rfl, State.reset_stack, rfl, rfl, length_fontTable,
    fun _ => Memory.initial_font, fun _ => Memory.initial_eq_zero, Frame.pixel_blank, rfl, rfl, rfl, rfl, rfl, rfl⟩

/-- Settles O16: what the ranges and the bounds ask of zeros holds. -/
theorem resetMeetsInvariants : Obligations.ResetMeetsInvariants := by
  unfold Obligations.ResetMeetsInvariants
  exact ⟨⟨Memory.wf_nil, Nat.zero_le _, Nat.zero_le _, resetConfig_legal, resetConfig_legal.2, List.length_replicate⟩,
    State.reset_pcInv⟩

/-! ### Construction -/

/-- A rom that fits is loaded: construction is reset but for the configuration, its blank ring, the loaded memory and
the recorded length. -/
theorem construct_of_le (cfg : Config) (font : Vector Byte 80) {rom : List Byte} (h : rom.length ≤ 3584) :
    construct cfg font rom = .ok { State.reset with
      cfg := cfg
      hist := List.replicate cfg.depth Frame.blank
      mem := Memory.loaded font rom
      romlength := rom.length } := if_pos h

/-- Settles O17: what is not loaded is as at reset, and what is loaded is read back from memory. -/
theorem constructLoadsFontAndProgram : Obligations.ConstructLoadsFontAndProgram := by
  unfold Obligations.ConstructLoadsFontAndProgram
  intro cfg font rom
  refine ⟨fun hlong => if_neg (Nat.not_le.2 hlong), fun hfits => ⟨_, construct_of_le cfg font hfits, ?_⟩⟩
  exact ⟨rfl, rfl, rfl, rfl, State.reset_reg, rfl, rfl, State.reset_stack, rfl, rfl, Frame.pixel_blank, rfl, rfl,
    List.length_replicate, fun _ => List.eq_of_mem_replicate, rfl, Memory.read_loaded_font font rom,
    fun _ => Memory.read_loaded_rom font rom, fun _ => Memory.read_loaded_outside font rom,
    fun hlegal => ⟨⟨Memory.wf_loaded font hfits, Nat.zero_le _, hfits, hlegal, hlegal.2, List.length_replicate⟩,
      State.reset_pcInv.congr rfl rfl⟩⟩

end Sys2Proof.Machine
end

section
/-! PROOFS. A fetch outside memory (spec/20_memory.md R33, spec/60_exceptions.md R106), and which instructions write
each kind of state (spec/20_memory.md R34, spec/10_state.md R12 to R26). -/

namespace Sys2Proof.Machine

/-! ### A fetch outside memory -/

theorem State.pastProgram_eq_false_iff (s : State) : s.pastProgram = false ↔ s.pc.toNat < 0x200 + s.romlength := by
  rw [← Bool.not_eq_true, s.pastProgram_iff, Nat.not_le]

/-- A running tick inside the program interprets one word and finishes the tick (R115). -/
theorem step_of_running {s : State} (hrun : s.run = .running) (hp : s.pastProgram = false) :
    step s = andThen s.beginTick.interpret State.endTick := by
  simp [step, hrun, hp]

/-- With no two bytes of memory at the `pc`, nothing is decoded: the fetch is the fault (R33). -/
theorem State.interpret_of_lt {s : State} (h : 4096 < s.pc.toNat + 2) :
    s.interpret = .next (fetchFault (max s.pc.toNat 4096) s) := by
  rw [State.interpret, State.fetch_of_lt h]

/-- Nothing follows an instruction that ended the run (R115). -/
theorem State.endTick_of_run_ne {s : State} (h : s.run ≠ .running) : s.endTick = s := by
  rw [State.endTick_eq, if_neg fun hrun => h hrun.1]

/-- Settles O8: the fetch faults, and the rest of the tick does nothing in an aborted run. -/
theorem stepFetchOutOfBoundsAborts : Obligations.StepFetchOutOfBoundsAborts := by
  unfold Obligations.StepFetchOutOfBoundsAborts
  intro s hrun hpc hout
  have hfetch : 4096 < s.beginTick.pc.toNat + 2 := by rw [State.beginTick_pc]; omega
  rw [step_of_running hrun (s.pastProgram_eq_false_iff.2 hpc), State.interpret_of_lt hfetch, andThen_next,
    State.endTick_of_run_ne (by simp [fetchFault])]
  rfl

/-! ### Which instructions write each kind of state -/

/-- From `s` to `t` the instruction `i` writes memory, the framebuffer, `I`, `sp`, the stack slots and the timers only
where it is one that the spec names for it. A field left out of a proof is one that `t` plainly takes from `s`. -/
structure WritesAsNamed (i : Instr) (s t : State) : Prop where
  mem : (∀ x, i ≠ .ldB x ∧ i ≠ .storeRegs x) → t.mem = s.mem := by intros; rfl
  fb : i ≠ .cls → (∀ x y n, i ≠ .drw x y n) → t.fb = s.fb := by intros; rfl
  I : (∀ nnn x, i ≠ .ldI nnn ∧ i ≠ .addI x ∧ i ≠ .ldF x) → t.I = s.I := by intros; rfl
  sp : i ≠ .ret → (∀ nnn, i ≠ .call nnn) → t.sp = s.sp := by intros; rfl
  stack : (∀ nnn, i ≠ .call nnn) → t.stack = s.stack := by intros; rfl
  dt : (∀ x, i ≠ .ldDtVx x) → t.dt = s.dt := by intros; rfl
  st : (∀ x, i ≠ .ldStVx x) → t.st = s.st := by intros; rfl

/-- A fatal condition writes none of these, whatever the instruction (R108). -/
theorem writesAsNamed_raiseFatal (i : Instr) (c : Cause) (w : Option Word) (s : State) :
    WritesAsNamed i s (raiseFatal c w s) := {}

/-- A checked access writes as named where its body does (R33). -/
theorem writesAsNamed_withBounds {i : Instr} {base count : Nat} {w : Option Word} {body : State → State} {s : State}
    (hbody : WritesAsNamed i s (body s)) : WritesAsNamed i s (withBounds base count w body s) := by
  obtain h | ⟨a, h⟩ := withBounds_cases base count w body s
  · rwa [h]
  · rw [h]; exact writesAsNamed_raiseFatal i _ w s

/-- No answer of the host to a key wait writes any of these (R86). -/
theorem writesAsNamed_finishKeyWait (i : Instr) (s : State) (x : RegIdx) (a : KeyWaitAnswer) :
    WritesAsNamed i s (s.drawKeyWait.2.finishKeyWait x a) := by
  cases a with
  | pending => exact {}
  | answered key quit =>
    cases quit
    · exact {}
    · exact {}

/-- Each instruction writes as the spec names it: where it writes one of these kinds of state, it is itself among the
named. -/
theorem exec_writesAsNamed {i : Instr} {s t : State} (h : exec i s = .next t) : WritesAsNamed i s t := by
  cases i
  case ldVxK x =>
    simp only [exec, execLdVxK] at h
    split at h
    · cases h
    · obtain rfl := Host.Outcome.next.inj h
      exact writesAsNamed_finishKeyWait _ s x _
  all_goals obtain rfl := Host.Outcome.next.inj h
  case cls => exact { fb := fun hne _ => absurd rfl hne }
  case drw x y n =>
    split
    · exact writesAsNamed_raiseFatal _ _ _ s
    · exact writesAsNamed_raiseFatal _ _ _ s
    · exact {}
    · exact writesAsNamed_withBounds { fb := fun _ hne => absurd rfl (hne x y n) }
  case ret =>
    split
    · exact writesAsNamed_raiseFatal _ _ _ s
    · exact { sp := fun hne _ => absurd rfl hne }
  case call nnn =>
    split
    · exact writesAsNamed_raiseFatal _ _ _ s
    · split
      · exact { sp := fun _ hne => absurd rfl (hne nnn), stack := fun hne => absurd rfl (hne nnn) }
      · exact writesAsNamed_raiseFatal _ _ _ s
  case jp | skp | sknp =>
    split
    · exact {}
    · exact writesAsNamed_raiseFatal _ _ _ s
  case ldI nnn => exact { I := fun hne => absurd rfl (hne nnn 0#4).1 }
  case addI x => exact { I := fun hne => absurd rfl (hne 0#12 x).2.1 }
  case ldF x => exact { I := fun hne => absurd rfl (hne 0#12 x).2.2 }
  case ldDtVx x => exact { dt := fun hne => absurd rfl (hne x) }
  case ldStVx x => exact { st := fun hne => absurd rfl (hne x) }
  case ldB x => exact writesAsNamed_withBounds { mem := fun hne => absurd rfl (hne x).1 }
  case storeRegs x => exact writesAsNamed_withBounds { mem := fun hne => absurd rfl (hne x).2 }
  case loadRegs => exact writesAsNamed_withBounds {}
  all_goals exact {}

/-- Settles O23: what the spec names for some instructions is written by these alone, the rest by none. -/
theorem onlyTheNamedInstructionsWrite : Obligations.OnlyTheNamedInstructionsWrite := by
  unfold Obligations.OnlyTheNamedInstructionsWrite
  intro i s t h
  obtain ⟨hmem, hfb, hI, hsp, hstack, hdt, hst⟩ := exec_writesAsNamed h
  obtain ⟨hcfg, hrom, hctr, hhist⟩ := exec_sameUnwrittenFields h
  exact ⟨fun hne a => congrArg (Memory.read · a) (hmem hne), hfb, hI, hsp, hstack, hdt, hst, hcfg, hrom, hctr, hhist⟩

end Sys2Proof.Machine
end

section
/-! PROOFS. An encoded instruction is decoded back (spec/30_encoding.md R43, R45, R46, spec/20_memory.md R31). -/

namespace Sys2Proof

/-! ### Decoding an encoded instruction -/

/-- A well-formed instruction is read back from its word: the fields of its format are the operands. A well-formed SYS
is neither of the two full words tested before it (R45). -/
theorem decodeWord_encode {i : Instr} (h : i.wellFormed = true) : decodeWord (encode i) = some i := by
  cases i
  case cls | ret => rfl
  case sys nnn =>
    have hfields : nnn ≠ 0x0E0#12 ∧ nnn ≠ 0x0EE#12 := by simpa [Instr.wellFormed] using h
    have hcls : 0x0#4 ++ nnn ≠ 0x00E0#16 := mt (BitVec.append_right_inj (0x0#4) (t₂ := 0x0E0#12)).1 hfields.1
    have hret : 0x0#4 ++ nnn ≠ 0x00EE#16 := mt (BitVec.append_right_inj (0x0#4) (t₂ := 0x0EE#12)).1 hfields.2
    simp [encode, decodeWord, decodeFamily0, hcls, hret]
  case ldReg | orReg | andReg | xorReg | addReg | subReg | shr | subn | shl =>
    simp [encode, decodeWord, decodeFamily8]
  case skp | sknp => simp [encode, decodeWord, decodeFamilyE]
  case ldVxDt | ldVxK | ldDtVx | ldStVx | addI | ldF | ldB | storeRegs | loadRegs =>
    simp [encode, decodeWord, decodeFamilyF]
  all_goals simp [encode, decodeWord]

/-- The first two bytes make the word that is decoded, the rest is left (R31, R42). -/
theorem decode_wordBytes_append {w : Word} {i : Instr} (h : decodeWord w = some i) (rest : List Byte) :
    decode (wordBytes w ++ rest) = .ok (i, rest) := by
  simp [wordBytes, decode, h]

/-- Settles O1: the two bytes make the encoded word, which decodes to the instruction. -/
theorem decodeOfEncodeIsIdentity : Obligations.DecodeOfEncodeIsIdentity := by
  unfold Obligations.DecodeOfEncodeIsIdentity
  intro i rest h
  exact decode_wordBytes_append (decodeWord_encode h) rest

/-- Settles O5, word by word. -/
theorem writtenWordsDecode : Obligations.WrittenWordsDecode := by
  unfold Obligations.WrittenWordsDecode
  exact ⟨rfl, rfl, rfl, rfl, rfl, rfl, rfl, rfl, rfl, rfl, rfl, rfl, rfl, rfl⟩

end Sys2Proof
end

section
/-! PROOFS. What the two-stage decoder reads from a word (spec/30_encoding.md R43 to R49): one lemma over all words,
from which the statements about recognised and unrecognised words follow. -/

namespace Sys2Proof

/-! ### A word from its fields, where some of them are known -/

theorem append_fieldNNN {w : Word} {op : BitVec 4} (hop : fieldFamily w = op) : op ++ fieldNNN w = w := by
  rw [← hop, word_of_formatA]

theorem append_fieldX_fieldKK {w : Word} {op : BitVec 4} {kk : Byte} (hop : fieldFamily w = op)
    (hkk : fieldKK w = kk) : op ++ fieldX w ++ kk = w := by
  rw [← hop, ← hkk, word_of_formatI]

theorem append_fieldX_fieldY_fieldN {w : Word} {op n : BitVec 4} (hop : fieldFamily w = op) (hn : fieldN w = n) :
    op ++ fieldX w ++ fieldY w ++ n = w := by
  rw [← hop, ← hn, word_of_formatR]

/-- A field that is a digit as a number is that digit. -/
theorem eq_ofNat_of_toNat_eq {n k : Nat} {b : BitVec n} (h : b.toNat = k) : b = BitVec.ofNat n k := by
  rw [← h, BitVec.ofNat_toNat, BitVec.setWidth_eq]

/-! ### The rows of the opcode map, family by family -/

/-- A row that fixes the family digit alone. -/
def OpcodeRow.byFamily (op : BitVec 4) : OpcodeRow := ⟨0xF000#16, op ++ 0x000#12⟩

/-- A row that fixes the family digit and the low nibble. -/
def OpcodeRow.byNibble (op n : BitVec 4) : OpcodeRow := ⟨0xF00F#16, op ++ 0x0#4 ++ 0x0#4 ++ n⟩

/-- A row that fixes the family digit and the low byte. -/
def OpcodeRow.byByte (op : BitVec 4) (kk : Byte) : OpcodeRow := ⟨0xF0FF#16, op ++ 0x0#4 ++ kk⟩

section
variable {w : Word} {op : BitVec 4} (hop : fieldFamily w = op)
include hop

theorem selects_byFamily : (OpcodeRow.byFamily op).selects w = true := by
  rw [← append_fieldNNN hop]
  exact beq_iff_eq.2 (Laws.FixedBits.and_family_mask _ _)

theorem selects_byNibble (n : BitVec 4) : (OpcodeRow.byNibble op n).selects w = (fieldN w == n) := by
  have hand := Laws.FixedBits.and_nibble_mask op (fieldX w) (fieldY w) (fieldN w)
  rw [append_fieldX_fieldY_fieldN hop rfl] at hand
  rw [OpcodeRow.selects, OpcodeRow.byNibble, hand, Bool.eq_iff_iff, beq_iff_eq, beq_iff_eq, BitVec.append_right_inj]

theorem selects_byByte (kk : Byte) : (OpcodeRow.byByte op kk).selects w = (fieldKK w == kk) := by
  have hand := Laws.FixedBits.and_byte_mask op (fieldX w) (fieldKK w)
  rw [append_fieldX_fieldKK hop rfl] at hand
  rw [OpcodeRow.selects, OpcodeRow.byByte, hand, Bool.eq_iff_iff, beq_iff_eq, beq_iff_eq, BitVec.append_right_inj]

end

/-- The rows of R48 of one family, in the order they are tried. -/
def familyRows (op : BitVec 4) : List OpcodeRow := opcodeTable.filter fun r => fieldFamily r.pattern == op

/-- The families whose only row fixes nothing but the family digit. -/
def soleRowFamilies : List (BitVec 4) := [0x1, 0x2, 0x3, 0x4, 0x6, 0x7, 0xA, 0xB, 0xC, 0xD]

theorem familyRows_sole : ∀ op ∈ soleRowFamilies, familyRows op = [.byFamily op] := by decide

theorem familyRows_0 :
    familyRows 0x0#4 = [⟨0xFFFF#16, 0x00E0#16⟩, ⟨0xFFFF#16, 0x00EE#16⟩, .byFamily 0x0#4] := rfl

/-- The rows of the whole map fix the family digit, so the first stage loses none that selects the word (R44). -/
theorem fieldFamily_of_selects {w : Word} {r : OpcodeRow} (hr : r ∈ opcodeTable) (h : r.selects w = true) :
    fieldFamily r.pattern = fieldFamily w := by
  have hmask : ∀ r ∈ opcodeTable, fieldFamily r.mask = BitVec.allOnes 4 := by decide
  have hand : w &&& r.mask = r.pattern := beq_iff_eq.1 h
  rw [← hand, fieldFamily, BitVec.extractLsb'_and]
  exact (congrArg (_ &&& ·) (hmask r hr)).trans BitVec.and_allOnes

/-- The first row that selects a word is the first of its family. -/
theorem find?_opcodeTable (w : Word) :
    (opcodeTable.find? fun r => r.selects w) = (familyRows (fieldFamily w)).find? fun r => r.selects w := by
  rw [familyRows, List.find?_filter]
  refine List.find?_congr fun r hr => ?_
  rw [Bool.eq_iff_iff, decide_eq_true_iff, beq_iff_eq]
  exact ⟨fun h => ⟨fieldFamily_of_selects hr h, h⟩, fun h => h.2⟩

/-- Among rows that each select the words with one value of a field, the row of that value is found. -/
theorem find?_map_eq_ite {α β : Type} [DecidableEq β] {f : β → α} {p : α → Bool} {key : β}
    (h : ∀ k, p (f k) = (key == k)) (ks : List β) :
    (ks.map f).find? p = if key ∈ ks then some (f key) else none := by
  induction ks with
  | nil => rfl
  | cons k ks ih =>
    by_cases hk : key = k
    · simp [h, hk]
    · simp [h, hk, ih]

section
variable {w : Word} {op : BitVec 4} (hop : fieldFamily w = op)
include hop

theorem find?_byFamily : ([OpcodeRow.byFamily op].find? fun r => r.selects w) = some (.byFamily op) :=
  List.find?_cons_of_pos (selects_byFamily hop)

/-- The second stage of a family whose rows fix the low nibble. -/
theorem find?_opcodeTable_byNibble {ns : List (BitVec 4)} (hrows : familyRows op = ns.map (.byNibble op)) :
    (opcodeTable.find? fun r => r.selects w) =
      if fieldN w ∈ ns then some (.byNibble op (fieldN w)) else none := by
  rw [find?_opcodeTable, hop, hrows, find?_map_eq_ite (selects_byNibble hop)]

/-- The second stage of a family whose rows fix the low byte. -/
theorem find?_opcodeTable_byByte {kks : List Byte} (hrows : familyRows op = kks.map (.byByte op)) :
    (opcodeTable.find? fun r => r.selects w) =
      if fieldKK w ∈ kks then some (.byByte op (fieldKK w)) else none := by
  rw [find?_opcodeTable, hop, hrows, find?_map_eq_ite (selects_byByte hop)]

end

/-! ### The two stages -/

/-- The words R49 lists. -/
def ListedUnrecognised (w : Word) : Prop :=
  ((fieldFamily w = 0x5#4 ∨ fieldFamily w = 0x9#4) ∧ fieldN w ≠ 0#4) ∨
  (fieldFamily w = 0x8#4 ∧ (fieldN w).toNat ∈ [0x8, 0x9, 0xA, 0xB, 0xC, 0xD, 0xF]) ∨
  (fieldFamily w = 0xE#4 ∧ (fieldKK w).toNat ∉ [0x9E, 0xA1]) ∨
  (fieldFamily w = 0xF#4 ∧ (fieldKK w).toNat ∉ [0x07, 0x0A, 0x15, 0x18, 0x1E, 0x29, 0x33, 0x55, 0x65])

/-- What the decoder can read from a word: an instruction whose word it is and whose row is the first to select it, or
nothing, from a word that no row selects and that R49 lists. -/
inductive Reads (w : Word) : Option Instr → Prop where
  | recognised {i : Instr} (hwf : i.wellFormed = true) (hword : encode i = w)
      (hrow : (opcodeTable.find? fun r => r.selects w) = some (opcodeRow i))
      (hlisted : ¬ ListedUnrecognised w) : Reads w (some i)
  | unrecognised (hrow : (opcodeTable.find? fun r => r.selects w) = none)
      (hlisted : ListedUnrecognised w) : Reads w none

/-- A family of one row that fixes nothing but the family digit. -/
theorem reads_sole {w : Word} {op : BitVec 4} {i : Instr} (hop : fieldFamily w = op) (hmem : op ∈ soleRowFamilies)
    (hwf : i.wellFormed = true) (hword : encode i = w) (hrow : opcodeRow i = .byFamily op) : Reads w (some i) := by
  have hne : ∀ op ∈ soleRowFamilies, op ≠ 0x5#4 ∧ op ≠ 0x9#4 ∧ op ≠ 0x8#4 ∧ op ≠ 0xE#4 ∧ op ≠ 0xF#4 := by
    decide
  refine .recognised hwf hword ?_ ?_
  · rw [find?_opcodeTable, hop, familyRows_sole op hmem, hrow, find?_byFamily hop]
  · simp [ListedUnrecognised, hop, hne op hmem]

/-- Family 0: SYS is what the two full words leave (R45). -/
theorem reads_decodeFamily0 {w : Word} (hop : fieldFamily w = 0x0#4) : Reads w (decodeFamily0 w) := by
  have hw : 0x0#4 ++ fieldNNN w = w := append_fieldNNN hop
  have hlisted : ¬ ListedUnrecognised w := by simp [ListedUnrecognised, hop]
  unfold decodeFamily0
  split
  · next hcls => exact .recognised rfl hcls.symm (by rw [hcls]; rfl) hlisted
  · next hcls =>
    split
    · next hret => exact .recognised rfl hret.symm (by rw [hret]; rfl) hlisted
    · next hret =>
      have hnotcls : fieldNNN w ≠ 0x0E0#12 := fun he => hcls (by rw [← hw, he]; rfl)
      have hnotret : fieldNNN w ≠ 0x0EE#12 := fun he => hret (by rw [← hw, he]; rfl)
      refine .recognised (by simp [Instr.wellFormed, hnotcls, hnotret]) hw ?_ hlisted
      rw [find?_opcodeTable, hop, familyRows_0]
      have hmask : w &&& 0xFFFF#16 = w := BitVec.and_allOnes
      rw [List.find?_cons_of_neg (by simpa [OpcodeRow.selects, hmask]),
        List.find?_cons_of_neg (by simpa [OpcodeRow.selects, hmask]),
        find?_byFamily hop]
      rfl

/-- Where a second stage tests `key`, one of `keys` finds its row and every other one is a word R49 lists. -/
structure SecondStage {β : Type} [DecidableEq β] (w : Word) (row : β → OpcodeRow) (key : β) (keys : List β) : Prop where
  find : (opcodeTable.find? fun r => r.selects w) = if key ∈ keys then some (row key) else none
  listed_iff : ListedUnrecognised w ↔ key ∉ keys

section
variable {β : Type} [DecidableEq β] {w : Word} {row : β → OpcodeRow} {key : β} {keys : List β}
  (hstage : SecondStage w row key keys)
include hstage

theorem SecondStage.recognised {i : Instr} (hmem : key ∈ keys) (hwf : i.wellFormed = true) (hword : encode i = w)
    (hrow : opcodeRow i = row key) : Reads w (some i) :=
  .recognised hwf hword (by rw [hstage.find, if_pos hmem, hrow]) fun h => hstage.listed_iff.1 h hmem

theorem SecondStage.unrecognised (hmem : key ∉ keys) : Reads w none :=
  .unrecognised (by rw [hstage.find, if_neg hmem]) (hstage.listed_iff.2 hmem)

end

section
variable {w : Word}

theorem secondStage_5 (hop : fieldFamily w = 0x5#4) : SecondStage w (.byNibble 0x5#4) (fieldN w) [0x0] where
  find := find?_opcodeTable_byNibble hop rfl
  listed_iff := by simp [ListedUnrecognised, hop]

theorem secondStage_9 (hop : fieldFamily w = 0x9#4) : SecondStage w (.byNibble 0x9#4) (fieldN w) [0x0] where
  find := find?_opcodeTable_byNibble hop rfl
  listed_iff := by simp [ListedUnrecognised, hop]

theorem secondStage_8 (hop : fieldFamily w = 0x8#4) :
    SecondStage w (.byNibble 0x8#4) (fieldN w) [0x0, 0x1, 0x2, 0x3, 0x4, 0x5, 0x6, 0x7, 0xE] where
  find := find?_opcodeTable_byNibble hop rfl
  listed_iff := by
    simp [ListedUnrecognised, hop]
    bv_omega

theorem secondStage_E (hop : fieldFamily w = 0xE#4) :
    SecondStage w (.byByte 0xE#4) (fieldKK w) [0x9E, 0xA1] where
  find := find?_opcodeTable_byByte hop rfl
  listed_iff := by simp [ListedUnrecognised, hop, ← BitVec.toNat_inj]

theorem secondStage_F (hop : fieldFamily w = 0xF#4) :
    SecondStage w (.byByte 0xF#4) (fieldKK w) [0x07, 0x0A, 0x15, 0x18, 0x1E, 0x29, 0x33, 0x55, 0x65] where
  find := find?_opcodeTable_byByte hop rfl
  listed_iff := by simp [ListedUnrecognised, hop, ← BitVec.toNat_inj]

end

/-- Families 5 and 9: a low nibble of 0 selects the one row (D7). -/
theorem reads_nibbleZero {w : Word} {op : BitVec 4} {i : Instr} (hop : fieldFamily w = op)
    (hstage : SecondStage w (.byNibble op) (fieldN w) [0x0]) (hwf : i.wellFormed = true)
    (hword : encode i = op ++ fieldX w ++ fieldY w ++ 0x0#4) (hrow : opcodeRow i = .byNibble op 0x0#4) :
    Reads w (if fieldN w = 0#4 then some i else none) := by
  split
  · next hn =>
    exact hstage.recognised (List.mem_singleton.2 hn) hwf (hword.trans (append_fieldX_fieldY_fieldN hop hn)) (hn ▸ hrow)
  · next hn => exact hstage.unrecognised (mt List.mem_singleton.1 hn)

/-- Family 8: the low nibble selects among nine operations (R44). -/
theorem reads_decodeFamily8 {w : Word} (hop : fieldFamily w = 0x8#4) : Reads w (decodeFamily8 w) := by
  unfold decodeFamily8
  split
  case h_10 => exact (secondStage_8 hop).unrecognised (by simp_all [← BitVec.toNat_inj])
  all_goals
    next hn =>
      have hn := eq_ofNat_of_toNat_eq hn
      exact (secondStage_8 hop).recognised (by simp [hn]) rfl (append_fieldX_fieldY_fieldN hop hn) (by rw [hn]; rfl)

/-- Family E: the low byte selects between two operations (R44). -/
theorem reads_decodeFamilyE {w : Word} (hop : fieldFamily w = 0xE#4) : Reads w (decodeFamilyE w) := by
  unfold decodeFamilyE
  split
  case h_3 => exact (secondStage_E hop).unrecognised (by simp_all [← BitVec.toNat_inj])
  all_goals
    next hkk =>
      have hkk := eq_ofNat_of_toNat_eq hkk
      exact (secondStage_E hop).recognised (by simp [hkk]) rfl (append_fieldX_fieldKK hop hkk) (by rw [hkk]; rfl)

/-- Family F: the low byte selects among nine operations (R44). -/
theorem reads_decodeFamilyF {w : Word} (hop : fieldFamily w = 0xF#4) : Reads w (decodeFamilyF w) := by
  unfold decodeFamilyF
  split
  case h_10 => exact (secondStage_F hop).unrecognised (by simp_all [← BitVec.toNat_inj])
  all_goals
    next hkk =>
      have hkk := eq_ofNat_of_toNat_eq hkk
      exact (secondStage_F hop).recognised (by simp [hkk]) rfl (append_fieldX_fieldKK hop hkk) (by rw [hkk]; rfl)

/-- The first stage: the family digit. -/
theorem decodeWord_reads (w : Word) : Reads w (decodeWord w) := by
  unfold decodeWord
  split
  case h_1 hop => exact reads_decodeFamily0 (eq_ofNat_of_toNat_eq hop)
  case h_6 hop =>
    have hop := eq_ofNat_of_toNat_eq hop
    exact reads_nibbleZero hop (secondStage_5 hop) rfl rfl rfl
  case h_9 hop => exact reads_decodeFamily8 (eq_ofNat_of_toNat_eq hop)
  case h_10 hop =>
    have hop := eq_ofNat_of_toNat_eq hop
    exact reads_nibbleZero hop (secondStage_9 hop) rfl rfl rfl
  case h_15 hop => exact reads_decodeFamilyE (eq_ofNat_of_toNat_eq hop)
  case h_16 hop => exact reads_decodeFamilyF (eq_ofNat_of_toNat_eq hop)
  case h_17 =>
    simp only [imp_false] at *
    have := (fieldFamily w).isLt
    omega
  case h_2 hop | h_3 hop | h_11 hop | h_12 hop =>
    have hop := eq_ofNat_of_toNat_eq hop
    exact reads_sole hop (by decide) rfl (append_fieldNNN hop) rfl
  case h_4 hop | h_5 hop | h_7 hop | h_8 hop | h_13 hop =>
    have hop := eq_ofNat_of_toNat_eq hop
    exact reads_sole hop (by decide) rfl (append_fieldX_fieldKK hop rfl) rfl
  case h_14 hop =>
    have hop := eq_ofNat_of_toNat_eq hop
    exact reads_sole hop (by decide) rfl (append_fieldX_fieldY_fieldN hop rfl) rfl

theorem Reads.map_opcodeRow {w : Word} {o : Option Instr} (h : Reads w o) :
    o.map opcodeRow = opcodeTable.find? fun r => r.selects w := by
  cases h with
  | recognised _ _ hrow => exact hrow.symm
  | unrecognised hrow => exact hrow.symm

theorem Reads.eq_none_iff {w : Word} {o : Option Instr} (h : Reads w o) : o = none ↔ ListedUnrecognised w := by
  cases h with
  | recognised _ _ _ hlisted => exact iff_of_false (Option.some_ne_none _) hlisted
  | unrecognised _ hlisted => exact iff_of_true rfl hlisted

/-! ### The obligations -/

/-- Settles O2: a recognised word is the word of what is read. -/
theorem encodeOfDecodeIsIdentity : Obligations.EncodeOfDecodeIsIdentity := by
  unfold Obligations.EncodeOfDecodeIsIdentity
  intro w i h
  obtain ⟨hwf, hword, -, -⟩ := h ▸ decodeWord_reads w
  exact ⟨hwf, hword⟩

/-- Settles O3: the row of what is read is the first that selects the word. -/
theorem decodeTakesFirstMatchingRow : Obligations.DecodeTakesFirstMatchingRow := by
  unfold Obligations.DecodeTakesFirstMatchingRow
  exact fun w => (decodeWord_reads w).map_opcodeRow

/-- Settles O4: the words from which nothing is read are those R49 lists. -/
theorem unrecognisedWordsAreTheListed : Obligations.UnrecognisedWordsAreTheListed := by
  unfold Obligations.UnrecognisedWordsAreTheListed
  exact fun w => (decodeWord_reads w).eq_none_iff

end Sys2Proof
end

section
/-! PROOFS. The frame of the operations that family 0 is written with, and family 0 itself: clear, return, system call
(spec/40_family0_system.md R53 to R55). -/

namespace Sys2Proof.Machine

/-! ### What an update may change -/

/-- The program counter is no part, so setting it keeps every part as it was. -/
@[simp] theorem Part.same_setPc (s t : State) (a : Word) (p : Part) : p.Same s (t.setPc a) ↔ p.Same s t := by
  cases p <;> rfl

theorem onlyChanges_refl (xs : List RegIdx) (ps : List Part) (s : State) : OnlyChanges xs ps s s :=
  ⟨fun _ _ => rfl, fun p _ => by cases p <;> simp [Part.Same]⟩

theorem OnlyChanges.setPc {xs : List RegIdx} {ps : List Part} {s t : State} (h : OnlyChanges xs ps s t) (a : Word) :
    OnlyChanges xs ps s (t.setPc a) := by
  obtain ⟨hreg, hpart⟩ := h
  exact ⟨hreg, fun p hp => (Part.same_setPc s t a p).2 (hpart p hp)⟩

theorem onlyChanges_pop (s : State) : OnlyChanges [] [.sp] s s.pop := by
  refine ⟨fun _ _ => rfl, fun p hp => ?_⟩
  cases p with
  | sp => exact absurd List.mem_cons_self hp
  | memory => exact fun _ => rfl
  | _ => rfl

/-- A fatal condition touches the run state and the events alone (R108). -/
theorem onlyChanges_raiseFatal (c : Cause) (w : Option Word) (s : State) :
    OnlyChanges [] [.runState, .events] s (raiseFatal c w s) := by
  refine ⟨fun _ _ => rfl, fun p hp => ?_⟩
  cases p with
  | runState | events => simp at hp
  | memory => exact fun _ => rfl
  | _ => rfl

/-- The state with a new framebuffer and draw signal. -/
theorem onlyChanges_screen (s : State) (f : Frame) (b : Bool) :
    OnlyChanges [] [.framebuffer, .drawSignal] s { s with fb := f, drawFlag := b } := by
  refine ⟨fun _ _ => rfl, fun p hp => ?_⟩
  cases p with
  | framebuffer | drawSignal => simp at hp
  | memory => exact fun _ => rfl
  | _ => rfl

/-! ### The words and the meanings of family 0 -/

/-- The first stage hands a word of family 0 to the second (R44). -/
theorem decodeWord_of_family0 {w : Word} (h : fieldFamily w = 0x0#4) : decodeWord w = decodeFamily0 w := by
  simp [decodeWord, h]

/-- With a frame on the stack a return pops it and goes on 2 bytes after its address (R54). -/
theorem exec_ret_of_sp_eq_succ {s : State} {k : Nat} (hk : k < 16) (h : s.sp = k + 1) :
    exec .ret s = .next (s.pop.setPc (s.stack[k] + 2#16)) := by
  rw [exec, execRet, if_neg (by omega), State.topOfStack_eq s k hk h]

/-- With no frame on the stack a return is a fatal condition (R105). -/
theorem exec_ret_of_sp_eq_zero {s : State} (h : s.sp = 0) :
    exec .ret s = .next (raiseFatal .stackUnderflow (some (encode .ret)) s) := by
  rw [exec, execRet, if_pos h]

/-! ### The obligations -/

/-- Settles O30: a return that finds a frame is a pop and a jump, one that finds none raises its fatal condition. -/
theorem returnPopsTheCallAddress : Obligations.ReturnPopsTheCallAddress := by
  unfold Obligations.ReturnPopsTheCallAddress
  refine fun s => ⟨fun k hsp => ?_, fun hsp => ?_⟩
  · exact ⟨_, exec_ret_of_sp_eq_succ k.isLt hsp, by simp [hsp], rfl, (onlyChanges_pop s).setPc _⟩
  · exact ⟨_, exec_ret_of_sp_eq_zero hsp, rfl, rfl, onlyChanges_raiseFatal _ _ s⟩

/-- Settles O29: the word is what the instruction encodes to, and the new framebuffer is the blank one. -/
theorem clearScreenUnlightsEveryPixel : Obligations.ClearScreenUnlightsEveryPixel := by
  unfold Obligations.ClearScreenUnlightsEveryPixel
  refine ⟨fun w => ⟨fun h => ?_, ?_⟩, fun s => ?_⟩
  · obtain ⟨-, hword⟩ := encodeOfDecodeIsIdentity w .cls h
    exact hword.symm
  · rintro rfl
    rfl
  · exact ⟨_, rfl, Frame.byte_blank, rfl, rfl, (onlyChanges_screen s _ _).setPc _⟩

/-- Settles O31: of family 0 the second stage leaves every word but two to SYS, which only advances `pc`. -/
theorem systemCallDoesNothing : Obligations.SystemCallDoesNothing := by
  unfold Obligations.SystemCallDoesNothing
  refine ⟨fun w hfamily hcls hret => ?_, fun s nnn => ?_⟩
  · rw [decodeWord_of_family0 hfamily, decodeFamily0, if_neg hcls, if_neg hret]
  · exact ⟨_, rfl, rfl, (onlyChanges_refl [] [] s).setPc _⟩

end Sys2Proof.Machine
end

section
/-! PROOFS. The words and the meanings of the jumps, the call and the conditional skips
(spec/41_flow_and_skip.md R56 to R62). -/

namespace Sys2Proof.Machine

/-! ### Targets -/

/-- The range check passes from the start of the program area on (R56). -/
theorem jumpTargetOk_iff (nnn : Addr12) : jumpTargetOk nnn ↔ 0x200 ≤ nnn.toNat := decide_eq_true_iff

theorem toNat_address16 (nnn : Addr12) : (address16 nnn).toNat = nnn.toNat :=
  BitVec.toNat_setWidth_of_le (by decide)

/-- At most 0xFFF + 0xFF, so the 16-bit sum does not wrap (R62). -/
theorem toNat_offsetTarget (nnn : Addr12) (v0 : Byte) : (offsetTarget nnn v0).toNat = nnn.toNat + v0.toNat := by
  simp only [offsetTarget, address16]
  bv_omega

/-! ### What a push and a skip change -/

theorem State.stackFull_iff (s : State) : s.stackFull ↔ s.cfg.stackLimit.toNat ≤ s.sp := decide_eq_true_iff

/-- A slot read after a push (R15). -/
theorem State.getElem_push_stack (s : State) (a : Word) (k : Fin 16) :
    (s.push a).stack[k.val] = if k.val = s.sp then a else s.stack[k.val] := by
  simp only [State.push_stack, Vector.getElem_setIfInBounds, eq_comm]

theorem onlyChanges_push (s : State) (a : Word) : OnlyChanges [] [.sp, .stack] s (s.push a) := by
  refine ⟨fun _ _ => rfl, fun p hp => ?_⟩
  cases p with
  | sp | stack => simp at hp
  | memory => exact fun _ => rfl
  | _ => rfl

/-- A skip on a test that decides `p` completes and moves `pc` by 4 or by 2, and nothing else. -/
theorem State.skipIf_completes (s : State) {b : Bool} {p : Prop} [Decidable p] (h : b = true ↔ p) :
    ∃ t, (.next (s.skipIf b) : Host.Outcome State Fault Refusal) = .next t ∧
      t.pc = (if p then s.pc + 4#16 else s.pc + 2#16) ∧ OnlyChanges [] [] s t :=
  ⟨_, rfl, by simp only [State.skipIf_pc, h], (onlyChanges_refl [] [] s).setPc _⟩

/-! ### The words -/

theorem decodeWord_of_family1 {w : Word} (h : fieldFamily w = 0x1#4) : decodeWord w = some (.jp (fieldNNN w)) := by
  simp [decodeWord, h]

theorem decodeWord_of_family3 {w : Word} (h : fieldFamily w = 0x3#4) :
    decodeWord w = some (.seImm (fieldX w) (fieldKK w)) := by
  simp [decodeWord, h]

theorem decodeWord_of_family4 {w : Word} (h : fieldFamily w = 0x4#4) :
    decodeWord w = some (.sneImm (fieldX w) (fieldKK w)) := by
  simp [decodeWord, h]

theorem decodeWord_of_familyB {w : Word} (h : fieldFamily w = 0xB#4) : decodeWord w = some (.jpV0 (fieldNNN w)) := by
  simp [decodeWord, h]

/-! ### The meanings of the jump and the call -/

theorem exec_jp_of_le (s : State) {nnn : Addr12} (h : 0x200 ≤ nnn.toNat) :
    exec (.jp nnn) s = .next (s.setPc (address16 nnn)) := by
  rw [exec, execJp, if_pos ((jumpTargetOk_iff nnn).2 h)]

theorem exec_jp_of_lt (s : State) {nnn : Addr12} (h : nnn.toNat < 0x200) :
    exec (.jp nnn) s = .next (raiseFatal (.jumpTargetRange nnn) (some (encode (.jp nnn))) s) := by
  rw [exec, execJp, if_neg ((jumpTargetOk_iff nnn).not.2 (Nat.not_le.2 h))]

/-- A full stack is found before the target is looked at (R110). -/
theorem exec_call_of_full {s : State} (hfull : s.cfg.stackLimit.toNat ≤ s.sp) (nnn : Addr12) :
    exec (.call nnn) s = .next (raiseFatal .stackOverflow (some (encode (.call nnn))) s) := by
  rw [exec, execCall, if_pos (s.stackFull_iff.2 hfull)]

theorem exec_call_of_room_of_le {s : State} {nnn : Addr12} (hroom : s.sp < s.cfg.stackLimit.toNat)
    (h : 0x200 ≤ nnn.toNat) : exec (.call nnn) s = .next ((s.push s.pc).setPc (address16 nnn)) := by
  rw [exec, execCall, if_neg (s.stackFull_iff.not.2 (Nat.not_le.2 hroom)), if_pos ((jumpTargetOk_iff nnn).2 h)]

theorem exec_call_of_room_of_lt {s : State} {nnn : Addr12} (hroom : s.sp < s.cfg.stackLimit.toNat)
    (h : nnn.toNat < 0x200) :
    exec (.call nnn) s = .next (raiseFatal (.jumpTargetRange nnn) (some (encode (.call nnn))) s) := by
  rw [exec, execCall, if_neg (s.stackFull_iff.not.2 (Nat.not_le.2 hroom)),
    if_neg ((jumpTargetOk_iff nnn).not.2 (Nat.not_le.2 h))]

/-! ### The obligations -/

/-- Settles O33: a call is a push and a jump, or raises the first of its two fatal conditions that it meets. -/
theorem callPushesItsOwnAddress : Obligations.CallPushesItsOwnAddress := by
  unfold Obligations.CallPushesItsOwnAddress
  refine fun s nnn => ⟨fun hroom hnnn => ?_, fun hfull => ?_, fun hroom hnnn => ?_⟩
  · exact ⟨_, exec_call_of_room_of_le hroom hnnn, rfl, toNat_address16 nnn, s.getElem_push_stack s.pc,
      (onlyChanges_push s s.pc).setPc _⟩
  · exact ⟨_, exec_call_of_full hfull.ge nnn, rfl, rfl, onlyChanges_raiseFatal _ _ s⟩
  · exact ⟨_, exec_call_of_room_of_lt hroom hnnn, rfl, rfl, onlyChanges_raiseFatal _ _ s⟩

/-- Settles O32: a jump sets `pc`, or raises its fatal condition. -/
theorem jumpSetsThePc : Obligations.JumpSetsThePc := by
  unfold Obligations.JumpSetsThePc
  refine ⟨fun w => decodeWord_of_family1, fun s nnn => ⟨fun hnnn => ?_, fun hnnn => ?_⟩⟩
  · exact ⟨_, exec_jp_of_le s hnnn, toNat_address16 nnn, (onlyChanges_refl [] [] s).setPc _⟩
  · exact ⟨_, exec_jp_of_lt s hnnn, rfl, rfl, onlyChanges_raiseFatal _ _ s⟩

/-- Settles O35: both are skips, on a register and the immediate. -/
theorem skipOnImmediate : Obligations.SkipOnImmediate := by
  unfold Obligations.SkipOnImmediate
  refine ⟨fun w => decodeWord_of_family3, fun w => decodeWord_of_family4, fun s x kk => ⟨?_, ?_⟩⟩
  · exact s.skipIf_completes beq_iff_eq
  · exact s.skipIf_completes bne_iff_ne

/-- Settles O36: both are skips, on two registers. -/
theorem skipOnRegisters : Obligations.SkipOnRegisters := by
  unfold Obligations.SkipOnRegisters
  refine fun s x y => ⟨?_, ?_⟩
  · exact s.skipIf_completes beq_iff_eq
  · exact s.skipIf_completes bne_iff_ne

/-- Settles O37: the target is an integer sum below 65536, set without a check. -/
theorem jumpWithOffsetIsUnchecked : Obligations.JumpWithOffsetIsUnchecked := by
  unfold Obligations.JumpWithOffsetIsUnchecked
  refine ⟨fun w => decodeWord_of_familyB, fun s nnn => ?_⟩
  exact ⟨_, rfl, toNat_offsetTarget nnn _, (onlyChanges_refl [] [] s).setPc _⟩

end Sys2Proof.Machine
end

section
/-! PROOFS. Immediate loads, the ALU family, random, and the two writes of the index register (spec/42_load_and_alu.md
R63 to R76, spec/45_timer_index_memory.md R90). -/

namespace Sys2Proof.Machine

/-! ### What a register write, a random draw and an index write change -/

/-- A register is no part, so writing one keeps every part as it was. -/
@[simp] theorem Part.same_setReg (s t : State) (x : RegIdx) (a : Byte) (p : Part) :
    p.Same s (t.setReg x a) ↔ p.Same s t := by
  cases p <;> rfl

/-- A write of a register that may change anyway changes nothing more. -/
theorem OnlyChanges.setReg {xs : List RegIdx} {ps : List Part} {s t : State} (h : OnlyChanges xs ps s t) {x : RegIdx}
    (hx : x ∈ xs) (a : Byte) : OnlyChanges xs ps s (t.setReg x a) := by
  obtain ⟨hreg, hpart⟩ := h
  refine ⟨fun r hr => ?_, fun p hp => (Part.same_setReg s t x a p).2 (hpart p hp)⟩
  rw [State.reg_setReg, if_neg (ne_of_mem_of_not_mem hx hr).symm, hreg r hr]

theorem State.reg_setReg_self (s : State) (x : RegIdx) (a : Byte) : (s.setReg x a).reg x = a := by
  rw [State.reg_setReg, if_pos rfl]

/-- One register and `pc`. -/
theorem onlyChanges_setReg_advance (s : State) (x : RegIdx) (a : Byte) :
    OnlyChanges [x] [] s (s.setReg x a).advance :=
  ((onlyChanges_refl [x] [] s).setReg List.mem_cons_self a).setPc _

theorem onlyChanges_drawRandom (xs : List RegIdx) (s : State) : OnlyChanges xs [.ports] s s.drawRandom.2 := by
  refine ⟨fun _ _ => rfl, fun p hp => ?_⟩
  cases p with
  | ports => exact absurd List.mem_cons_self hp
  | memory => exact fun _ => rfl
  | _ => rfl

/-- The state with a new index register. -/
theorem onlyChanges_index (s : State) (i : Word) : OnlyChanges [] [.index] s { s with I := i } := by
  refine ⟨fun _ _ => rfl, fun p hp => ?_⟩
  cases p with
  | index => exact absurd List.mem_cons_self hp
  | memory => exact fun _ => rfl
  | _ => rfl

/-! ### A result with its flag (R74) -/

/-- What an instruction that writes a result and then the flag completes with: the flag survives in VF, the result in
any other register. -/
theorem State.setResultAndFlag_completes (s : State) (x : RegIdx) {a : Byte} {b : Bool} {n : Nat} (ha : a.toNat = n) :
    ∃ t, (.next (s.setResultAndFlag x a b).advance : Host.Outcome State Fault Refusal) = .next t ∧
      t.reg regF = flagByte b ∧ (x ≠ regF → (t.reg x).toNat = n) ∧
      t.pc = s.pc + 2#16 ∧ OnlyChanges [x, regF] [] s t := by
  refine ⟨_, rfl, by simp, fun hx => by simp [hx, ha], rfl, OnlyChanges.setPc ?_ _⟩
  exact ((onlyChanges_refl _ _ s).setReg (by simp) a).setReg (by simp) _

theorem flagByte_decide (p : Prop) [Decidable p] : flagByte (decide p) = if p then 1#8 else 0#8 := by
  simp only [flagByte, decide_eq_true_eq]

theorem toNat_flagByte (b : Bool) : (flagByte b).toNat = b.toNat := by
  cases b <;> rfl

/-- The bit a right shift drops is the remainder (R71). -/
theorem toNat_oldBit0 (v : Byte) : (oldBit0 v).toNat = v.toNat % 2 := by
  rw [oldBit0, BitVec.getLsbD, Nat.toNat_testBit, pow_zero, Nat.div_one]

/-- The bit a left shift drops is the quotient by 128 (R73). -/
theorem toNat_oldBit7 (v : Byte) : (oldBit7 v).toNat = v.toNat / 128 := by
  rw [oldBit7, BitVec.getLsbD, Nat.toNat_testBit]
  have := v.isLt
  omega

/-- A difference of bytes, over the integers. -/
theorem toNat_sub_byte (a b : Byte) : (a - b).toNat = (a.toNat + 256 - b.toNat) % 256 := by
  bv_omega

theorem shiftOperand_eq {s : State} {x y : RegIdx} {v : Byte} (hx : s.cfg.shiftSource = .x → v = s.reg x)
    (hy : s.cfg.shiftSource = .y → v = s.reg y) : shiftOperand s x y = v := by
  unfold shiftOperand
  split
  · next h => exact (hx h).symm
  · next h => exact (hy h).symm

/-- The index sum keeps all 16 bits (R90). -/
theorem toNat_indexSum (i : Word) (a : Byte) : (indexSum i a).toNat = (i.toNat + a.toNat) % 65536 := by
  rw [indexSum, BitVec.toNat_add, BitVec.toNat_setWidth_of_le (by decide)]

/-! ### The words -/

theorem decodeWord_of_family6 {w : Word} (h : fieldFamily w = 0x6#4) :
    decodeWord w = some (.ldImm (fieldX w) (fieldKK w)) := by
  simp [decodeWord, h]

theorem decodeWord_of_family7 {w : Word} (h : fieldFamily w = 0x7#4) :
    decodeWord w = some (.addImm (fieldX w) (fieldKK w)) := by
  simp [decodeWord, h]

theorem decodeWord_of_familyA {w : Word} (h : fieldFamily w = 0xA#4) : decodeWord w = some (.ldI (fieldNNN w)) := by
  simp [decodeWord, h]

theorem decodeWord_of_familyC {w : Word} (h : fieldFamily w = 0xC#4) :
    decodeWord w = some (.rnd (fieldX w) (fieldKK w)) := by
  simp [decodeWord, h]

/-- The first stage hands a word of family F to the second (R44). -/
theorem decodeWord_of_familyF {w : Word} (h : fieldFamily w = 0xF#4) : decodeWord w = decodeFamilyF w := by
  simp [decodeWord, h]

/-! ### The obligations -/

/-- Settles O39: each writes `V[x]` alone, and the bits of an OR, an AND, an XOR are those of the operands. -/
theorem assignAndLogicAreBitwise : Obligations.AssignAndLogicAreBitwise := by
  unfold Obligations.AssignAndLogicAreBitwise
  refine fun s x y => ⟨?_, ?_, ?_, ?_⟩
  · exact ⟨_, rfl, s.reg_setReg_self x _, rfl, onlyChanges_setReg_advance s x _⟩
  · refine ⟨_, rfl, fun b => ?_, rfl, onlyChanges_setReg_advance s x _⟩
    rw [State.reg_advance, State.reg_setReg_self, BitVec.getLsbD_or]
  · refine ⟨_, rfl, fun b => ?_, rfl, onlyChanges_setReg_advance s x _⟩
    rw [State.reg_advance, State.reg_setReg_self, BitVec.getLsbD_and]
  · refine ⟨_, rfl, fun b => ?_, rfl, onlyChanges_setReg_advance s x _⟩
    rw [State.reg_advance, State.reg_setReg_self, BitVec.getLsbD_xor]

/-- Settles O40: a result with its flag, the sum with the carry. -/
theorem addRegistersWithCarry : Obligations.AddRegistersWithCarry := by
  unfold Obligations.AddRegistersWithCarry
  intro s x y
  rw [← flagByte_decide]
  exact s.setResultAndFlag_completes x (BitVec.toNat_add _ _)

/-- Settles O41: a result with its flag, the difference with the strict comparison. -/
theorem subtractWithNotBorrow : Obligations.SubtractWithNotBorrow := by
  unfold Obligations.SubtractWithNotBorrow
  refine fun s x y => ⟨?_, ?_⟩
  · rw [← flagByte_decide]
    exact s.setResultAndFlag_completes x (toNat_sub_byte _ _)
  · rw [← flagByte_decide]
    exact s.setResultAndFlag_completes x (toNat_sub_byte _ _)

/-- Settles O42: a result with its flag, the shifted source with the bit shifted out. -/
theorem shiftsMoveOneBitOut : Obligations.ShiftsMoveOneBitOut := by
  unfold Obligations.ShiftsMoveOneBitOut
  intro s x y v hx hy
  obtain rfl := shiftOperand_eq hx hy
  have hshr : (shiftOperand s x y >>> 1).toNat = (shiftOperand s x y).toNat / 2 := by
    rw [BitVec.toNat_ushiftRight, Nat.shiftRight_eq_div_pow, pow_one]
  have hshl : (shiftOperand s x y <<< 1).toNat = 2 * (shiftOperand s x y).toNat % 256 := by
    rw [BitVec.toNat_shiftLeft, Nat.shiftLeft_eq, pow_one, Nat.mul_comm]
  refine ⟨?_, ?_⟩
  · obtain ⟨t, hexec, hflag, hrest⟩ := s.setResultAndFlag_completes x hshr
    exact ⟨t, hexec, by rw [hflag, toNat_flagByte, toNat_oldBit0], hrest⟩
  · obtain ⟨t, hexec, hflag, hrest⟩ := s.setResultAndFlag_completes x hshl
    exact ⟨t, hexec, by rw [hflag, toNat_flagByte, toNat_oldBit7], hrest⟩

/-- Settles O38: each writes `V[x]` alone, so VF is left as it was unless it is `V[x]`. -/
theorem loadAndAddImmediate : Obligations.LoadAndAddImmediate := by
  unfold Obligations.LoadAndAddImmediate
  refine ⟨fun w => decodeWord_of_family6, fun w => decodeWord_of_family7, fun s x kk => ⟨?_, ?_⟩⟩
  · exact ⟨_, rfl, s.reg_setReg_self x kk, rfl, onlyChanges_setReg_advance s x kk⟩
  · refine ⟨_, rfl, ?_, rfl, onlyChanges_setReg_advance s x _⟩
    rw [State.reg_advance, State.reg_setReg_self, BitVec.toNat_add]

/-- Settles O43: one register and the port are written, whatever byte the port gives. -/
theorem randomByteUnderMask : Obligations.RandomByteUnderMask := by
  unfold Obligations.RandomByteUnderMask
  refine ⟨fun w => decodeWord_of_familyC, fun s x kk => ?_⟩
  have hreg : (s.drawRandom.2.setReg x (s.drawRandom.1 &&& kk)).advance.reg x = s.drawRandom.1 &&& kk :=
    State.reg_setReg_self _ x _
  refine ⟨_, rfl, hreg, ?_, rfl, rfl, ((onlyChanges_drawRandom [x] s).setReg List.mem_cons_self _).setPc _⟩
  rw [hreg, BitVec.and_assoc, BitVec.and_not_self]
  exact BitVec.and_zero

/-- Settles O44: both write the index register alone. -/
theorem indexLoadAndAdd : Obligations.IndexLoadAndAdd := by
  unfold Obligations.IndexLoadAndAdd
  refine ⟨fun w => decodeWord_of_familyA, fun w hfamily hkk => ?_, fun s x nnn => ⟨?_, ?_⟩⟩
  · rw [decodeWord_of_familyF hfamily, decodeFamilyF, hkk]
    rfl
  · exact ⟨_, rfl, toNat_address16 nnn, rfl, (onlyChanges_index s _).setPc _⟩
  · exact ⟨_, rfl, toNat_indexSum s.I _, rfl, (onlyChanges_index s _).setPc _⟩

end Sys2Proof.Machine
end

section
/-! PROOFS. The row loop of the sprite draw: the byte-level algorithm toggles the pixels that the pixel-level one names
(spec/43_sprite_draw.md R81 to R83). -/

namespace Sys2Proof.Machine

/-! ### A change of the canvas, pixel by pixel -/

/-- From `k` to `k'` exactly the pixels `hit` names are toggled, and a collision is one there was or a hit on a lit
pixel. -/
structure Canvas.Toggles (hit : Fin 64 → Fin 32 → Prop) (k k' : Canvas) : Prop where
  toggled : ∀ px py, hit px py → k'.fb.pixel px py = !k.fb.pixel px py
  kept : ∀ px py, ¬ hit px py → k'.fb.pixel px py = k.fb.pixel px py
  collision : k'.collision = true ↔ k.collision = true ∨ ∃ px py, hit px py ∧ k.fb.pixel px py = true

theorem Canvas.Toggles.congr {hit hit' : Fin 64 → Fin 32 → Prop} {k k' : Canvas} (h : Toggles hit k k')
    (hiff : ∀ px py, hit' px py ↔ hit px py) : Toggles hit' k k' := by
  rwa [funext₂ fun px py => propext (hiff px py)]

/-- A canvas left alone. -/
theorem Canvas.toggles_self {hit : Fin 64 → Fin 32 → Prop} (hnone : ∀ px py, ¬ hit px py) (k : Canvas) :
    Toggles hit k k where
  toggled px py h := absurd h (hnone px py)
  kept _ _ _ := rfl
  collision := by simp [hnone]

/-- Two changes in turn that share no pixel: the second meets each of its pixels as it was at the start. -/
theorem Canvas.Toggles.trans {hit₁ hit₂ : Fin 64 → Fin 32 → Prop} {k k' k'' : Canvas} (h₁ : Toggles hit₁ k k')
    (h₂ : Toggles hit₂ k' k'') (hdisj : ∀ px py, hit₁ px py → ¬ hit₂ px py) :
    Toggles (fun px py => hit₁ px py ∨ hit₂ px py) k k'' where
  toggled px py h := by
    rcases h with h | h
    · rw [h₂.kept px py (hdisj px py h), h₁.toggled px py h]
    · rw [h₂.toggled px py h, h₁.kept px py fun h' => hdisj px py h' h]
  kept px py h := by
    rw [not_or] at h
    rw [h₂.kept px py h.2, h₁.kept px py h.1]
  collision := by
    have hmeets : (∃ px py, hit₂ px py ∧ k'.fb.pixel px py = true) ↔ ∃ px py, hit₂ px py ∧ k.fb.pixel px py = true :=
      exists₂_congr fun px py => and_congr_right fun h => by rw [h₁.kept px py fun h' => hdisj px py h' h]
    rw [h₂.collision, h₁.collision, hmeets, or_assoc]
    simp only [or_and_right, exists_or]

/-! ### One byte (R81) -/

/-- The pixel of a byte column that bit `i` of its byte is. -/
theorem Frame.pixel_of_column (f : Frame) (c : Fin 8) (r : Fin 32) {i : Nat} (hi : i < 8) :
    ∃ px, byteColumn px = c ∧ 7 - px.val % 8 = i ∧ f.pixel px r = (f.byte r c).getLsbD i := by
  have hc := c.isLt
  have hcol : byteColumn ⟨8 * c.val + (7 - i), by omega⟩ = c := Fin.ext (by simp only [byteColumn]; omega)
  have hbit : 7 - (8 * c.val + (7 - i)) % 8 = i := by omega
  exact ⟨_, hcol, hbit, by simp only [Frame.pixel, hcol, hbit]⟩

/-- Two bytes meet where some bit is set in both. -/
theorem and_ne_zero_iff (a b : Byte) :
    a &&& b ≠ 0#8 ↔ ∃ i < 8, a.getLsbD i = true ∧ b.getLsbD i = true := by
  rw [← not_iff_not, not_ne_iff]
  constructor
  · rintro h ⟨i, -, ha, hb⟩
    have hbit : (a &&& b).getLsbD i = true := by rw [BitVec.getLsbD_and, ha, hb]; rfl
    rw [h, BitVec.getLsbD_zero] at hbit
    cases hbit
  · intro h
    refine BitVec.eq_of_getLsbD_eq fun i hi => ?_
    rw [BitVec.getLsbD_and, BitVec.getLsbD_zero, Bool.and_eq_false_iff]
    by_contra hbit
    rw [not_or, Bool.not_eq_false, Bool.not_eq_false] at hbit
    exact h ⟨i, hi, hbit⟩

/-- A byte XORed toggles the pixels of its set bits, and collides where one of them was lit. -/
theorem Canvas.toggles_xorByte (k : Canvas) (r : Fin 32) (c : Fin 8) (m : Byte) :
    Toggles (fun px py => py = r ∧ byteColumn px = c ∧ m.getLsbD (7 - px.val % 8) = true) k (k.xorByte r c m) where
  toggled := by
    rintro px py ⟨rfl, rfl, hm⟩
    simp [Frame.pixel, Canvas.byte_xorByte, hm]
  kept px py h := by
    rw [Frame.pixel, Frame.pixel, Canvas.byte_xorByte]
    split
    · next hbyte =>
      obtain ⟨rfl, rfl⟩ := hbyte
      rw [BitVec.getLsbD_xor, Bool.eq_false_iff.2 fun hm => h ⟨rfl, rfl, hm⟩, Bool.xor_false]
    · rfl
  collision := by
    rw [Canvas.collision_xorByte, and_ne_zero_iff]
    refine or_congr_right ⟨?_, ?_⟩
    · rintro ⟨i, hi, hlit, hm⟩
      obtain ⟨px, rfl, rfl, hpixel⟩ := k.fb.pixel_of_column c r hi
      exact ⟨px, r, ⟨rfl, rfl, hm⟩, hpixel.trans hlit⟩
    · rintro ⟨px, _, ⟨rfl, rfl, hm⟩, hlit⟩
      exact ⟨_, by omega, hlit, hm⟩

/-! ### One row (R81) -/

/-- The byte-column after `c`: the next one, or column 0 past the last where the axis wraps, or none. -/
theorem nextColumn_eq_some (xwrap : WrapPolicy) (c c' : Fin 8) :
    nextColumn xwrap c = some c' ↔
      (c.val < 7 ∧ c'.val = c.val + 1) ∨ (c.val = 7 ∧ xwrap = .wrap ∧ c'.val = 0) := by
  have := c.isLt
  unfold nextColumn
  split
  · rw [Option.some.injEq, Fin.ext_iff]
    simp only
    omega
  · have hlast : c.val = 7 := by omega
    by_cases hwrap : xwrap = .wrap
    · rw [if_pos (by rw [hwrap]; rfl), Option.some.injEq, Fin.ext_iff, Fin.val_zero]
      simp only [hwrap, true_and]
      omega
    · rw [if_neg (by rwa [beq_iff_eq])]
      simp only [hwrap, false_and, and_false, or_false, reduceCtorEq, false_iff]
      omega

theorem pixelTarget_eq_some (policy : WrapPolicy) (size a p : Nat) :
    pixelTarget policy size a = some p ↔ (a < size ∧ a = p) ∨ (size ≤ a ∧ policy = .wrap ∧ a = p + size) := by
  unfold pixelTarget
  split
  · rw [Option.some.injEq]; omega
  · split <;> simp_all; omega

/-- A bit of the primary part of a row is that of the sprite pixel it shows (R81). -/
theorem getLsbD_primary (b : Byte) {s q : Nat} (hq : q < 8) :
    (b >>> s).getLsbD (7 - q) = true ↔ ∃ j < 8, b.getLsbD (7 - j) = true ∧ s + j = q := by
  rw [BitVec.getLsbD_ushiftRight]
  constructor
  · intro h
    have hlt := BitVec.lt_of_getLsbD h
    exact ⟨q - s, by omega, by rwa [show 7 - (q - s) = s + (7 - q) by omega], by omega⟩
  · rintro ⟨j, hj, hset, rfl⟩
    rwa [show s + (7 - (s + j)) = 7 - j by omega]

/-- A bit of the remainder of a row is that of the sprite pixel it shows (R81). -/
theorem getLsbD_remainder (b : Byte) {s q : Nat} (hs : s < 8) (hq : q < 8) :
    (b <<< (8 - s)).getLsbD (7 - q) = true ↔ ∃ j < 8, b.getLsbD (7 - j) = true ∧ s + j = q + 8 := by
  rw [BitVec.getLsbD_shiftLeft]
  constructor
  · intro h
    simp only [Bool.and_eq_true, Bool.not_eq_true', decide_eq_true_eq, decide_eq_false_iff_not] at h
    obtain ⟨⟨-, hle⟩, hset⟩ := h
    exact ⟨q + 8 - s, by omega, by rwa [show 7 - (q + 8 - s) = 7 - q - (8 - s) by omega], by omega⟩
  · rintro ⟨j, hj, hset, hsum⟩
    rw [show 7 - q - (8 - s) = 7 - j by omega, hset]
    simp only [Bool.and_true, Bool.and_eq_true, Bool.not_eq_true', decide_eq_true_eq, decide_eq_false_iff_not]
    omega

/-- Whether a set pixel of the sprite row `b` drawn at column `cx` has column `px` as its target (R83). -/
def RowHits (xwrap : WrapPolicy) (cx : Nat) (b : Byte) (px : Nat) : Prop :=
  ∃ j < 8, b.getLsbD (7 - j) = true ∧ pixelTarget xwrap 64 (cx + j) = some px

/-- The target of sprite column `j` lies in the byte-column of the origin, or in the one after it. -/
theorem pixelTarget_eq_some_column (xwrap : WrapPolicy) (cx px : Fin 64) {j : Nat} (hj : j < 8) :
    pixelTarget xwrap 64 (cx + j) = some px.val ↔
      (byteColumn px = byteColumn cx ∧ cx.val % 8 + j = px.val % 8) ∨
      (nextColumn xwrap (byteColumn cx) = some (byteColumn px) ∧ cx.val % 8 + j = px.val % 8 + 8) := by
  rw [pixelTarget_eq_some, nextColumn_eq_some]
  simp only [byteColumn, Fin.ext_iff]
  by_cases hwrap : xwrap = .wrap
  · simp only [hwrap, true_and]
    omega
  · simp only [hwrap, false_and, and_false, or_false]
    omega

/-- A target is a bit of the byte that the row's primary part is XORed into, or of the one that its remainder is. -/
theorem rowHits_iff (xwrap : WrapPolicy) (cx px : Fin 64) (b : Byte) :
    RowHits xwrap cx b px ↔
      (byteColumn px = byteColumn cx ∧ (b >>> (cx.val % 8)).getLsbD (7 - px.val % 8) = true) ∨
      (nextColumn xwrap (byteColumn cx) = some (byteColumn px) ∧
        (b <<< (8 - cx.val % 8)).getLsbD (7 - px.val % 8) = true) := by
  rw [getLsbD_primary b (by omega), getLsbD_remainder b (by omega) (by omega), RowHits]
  constructor
  · rintro ⟨j, hj, hset, htarget⟩
    obtain ⟨hcol, hsum⟩ | ⟨hcol, hsum⟩ := (pixelTarget_eq_some_column xwrap cx px hj).1 htarget
    · exact .inl ⟨hcol, j, hj, hset, hsum⟩
    · exact .inr ⟨hcol, j, hj, hset, hsum⟩
  · rintro (⟨hcol, j, hj, hset, hsum⟩ | ⟨hcol, j, hj, hset, hsum⟩)
    · exact ⟨j, hj, hset, (pixelTarget_eq_some_column xwrap cx px hj).2 (.inl ⟨hcol, hsum⟩)⟩
    · exact ⟨j, hj, hset, (pixelTarget_eq_some_column xwrap cx px hj).2 (.inr ⟨hcol, hsum⟩)⟩

/-- One row XORed toggles the targets of its set pixels (R81). -/
theorem Canvas.toggles_xorRow (xwrap : WrapPolicy) (k : Canvas) (cy : Fin 32) (cx : Fin 64) (b : Byte) :
    Toggles (fun px py => py = cy ∧ RowHits xwrap cx b px) k (k.xorRow xwrap cy cx b) := by
  simp only [rowHits_iff]
  have hprimary := k.toggles_xorByte cy (byteColumn cx) (b >>> (cx.val % 8))
  unfold Canvas.xorRow
  by_cases hs : cx.val % 8 = 0
  · rw [if_pos hs]
    refine hprimary.congr fun px py => ?_
    have hempty : b <<< (8 - cx.val % 8) = 0#8 := by rw [hs, BitVec.shiftLeft_eq_zero (Nat.le_refl 8)]
    simp [hempty]
  · rw [if_neg hs]
    split
    · next c hc =>
      refine (hprimary.trans (toggles_xorByte _ cy c _) ?_).congr fun px py => ?_
      · rintro px py ⟨-, hcol, -⟩ ⟨-, rfl, -⟩
        rw [hcol, nextColumn_eq_some] at hc
        omega
      · rw [hc, Option.some.injEq, eq_comm (a := c), and_or_left]
    · next hc =>
      refine hprimary.congr fun px py => ?_
      simp [hc]

/-! ### The row loop (R82) -/

/-- Whether a set pixel of the `rows` sprite rows from address `base`, drawn at column `cx`, row `cy`, has the screen
pixel `(px, py)` as its target (R83). -/
def RowsHit (xwrap ywrap : WrapPolicy) (m : Memory) (cx cy base rows px py : Nat) : Prop :=
  ∃ r < rows, pixelTarget ywrap 32 (cy + r) = some py ∧ RowHits xwrap cx (m.read (base + r)) px

/-- The rows of a sprite are its first one and those after it. -/
theorem rowsHit_succ (xwrap ywrap : WrapPolicy) (m : Memory) (cx base rows px : Nat) (cy py : Fin 32) :
    RowsHit xwrap ywrap m cx cy base (rows + 1) px py ↔
      (py = cy ∧ RowHits xwrap cx (m.read base) px) ∨
      ∃ r < rows, pixelTarget ywrap 32 (cy + (r + 1)) = some py.val ∧ RowHits xwrap cx (m.read (base + (r + 1))) px := by
  have hfirst : pixelTarget ywrap 32 (cy + 0) = some py.val ↔ py = cy := by
    rw [pixelTarget_eq_some, Fin.ext_iff]
    omega
  rw [RowsHit, Nat.exists_lt_succ_left, hfirst, Nat.add_zero]

/-- Row `r + 1` from row `cy` lands where row `r` from the row after it does (R82). -/
theorem pixelTarget_nextRow {ywrap : WrapPolicy} {cy cy' : Fin 32} (hnext : nextRow ywrap cy = some cy') {r : Nat}
    (hr : r < 31) : pixelTarget ywrap 32 (cy + (r + 1)) = pixelTarget ywrap 32 (cy' + r) := by
  obtain ⟨-, hcy⟩ | ⟨hcy, rfl, hcy'⟩ := (nextRow_eq_some ywrap cy cy').1 hnext
  · rw [hcy, Nat.add_assoc, Nat.add_comm 1]
  · rw [hcy, hcy', pixelTarget, if_neg (by omega), if_pos rfl, pixelTarget, if_pos (by omega)]
    congr 1
    omega

/-- Where the row loop stops after row `cy`, the rows after it land nowhere (R82). -/
theorem pixelTarget_of_nextRow_eq_none {ywrap : WrapPolicy} {cy : Fin 32} (hnext : nextRow ywrap cy = none) (r : Nat) :
    pixelTarget ywrap 32 (cy + (r + 1)) = none := by
  unfold nextRow at hnext
  split at hnext
  · cases hnext
  · split at hnext
    · cases hnext
    · next hrow hwrap => rw [pixelTarget, if_neg (by omega), if_neg (by simpa using hwrap)]

/-- The row loop toggles the targets of the set pixels of its rows, no row of the screen being drawn twice (R82). -/
theorem toggles_drawRows (xwrap ywrap : WrapPolicy) (m : Memory) (cx : Fin 64) {rows : Nat} (hrows : rows < 32)
    (base : Nat) (cy : Fin 32) (k : Canvas) :
    Canvas.Toggles (fun px py => RowsHit xwrap ywrap m cx cy base rows px py) k
      (drawRows xwrap ywrap m cx rows base cy k) := by
  induction rows generalizing base cy k with
  | zero => exact Canvas.toggles_self (fun px py ⟨r, hr, _⟩ => absurd hr r.not_lt_zero) k
  | succ rows ih =>
    have hfirst := k.toggles_xorRow xwrap cy cx (m.read base)
    simp only [rowsHit_succ]
    unfold drawRows
    split
    · next cy' hnext =>
      refine (hfirst.trans (ih (by omega) _ _ _) ?_).congr fun px py => or_congr_right ?_
      · rintro px py ⟨rfl, -⟩ ⟨r, hr, htarget, -⟩
        rw [← pixelTarget_nextRow hnext (by omega), pixelTarget_eq_some] at htarget
        omega
      · refine exists_congr fun r => and_congr_right fun hr => ?_
        rw [pixelTarget_nextRow hnext (by omega), Nat.add_comm r, Nat.add_assoc]
    · next hnext =>
      refine hfirst.congr fun px py => or_iff_left ?_
      rintro ⟨r, -, htarget, -⟩
      rw [pixelTarget_of_nextRow_eq_none hnext] at htarget
      cases htarget

end Sys2Proof.Machine
end

section
/-! PROOFS. The sprite draw `Dxyn`: drawn, suppressed, and drawn twice (spec/43_sprite_draw.md R78 to R80, R83). -/

namespace Sys2Proof.Machine

/-! ### The rows drawn and the canvas drawn (R78, R80) -/

/-- The rows drawn, as R78 counts them. -/
theorem rowsDrawn_eq (ywrap : WrapPolicy) (cy : Fin 32) (n : BitVec 4) :
    rowsDrawn ywrap cy n = if ywrap = .wrap then n.toNat else min n.toNat (32 - cy.val) := by
  cases ywrap <;> rfl

/-- A row that is not drawn has no target (R80). -/
theorem lt_rowsDrawn_of_pixelTarget {ywrap : WrapPolicy} {cy : Fin 32} {n : BitVec 4} {r py : Nat} (hr : r < n.toNat)
    (htarget : pixelTarget ywrap 32 (cy + r) = some py) : r < rowsDrawn ywrap cy n := by
  rw [rowsDrawn_eq]
  split
  · exact hr
  · next hwrap =>
    obtain ⟨hlt, -⟩ | ⟨-, hwrap', -⟩ := (pixelTarget_eq_some ..).1 htarget
    · omega
    · exact absurd hwrap' hwrap

/-- The pixels that R83 says a draw hits are the targets of the rows it draws. -/
theorem spriteHits_iff (s : State) (cx : Nat) (cy : Fin 32) (n : BitVec 4) (px py : Nat) :
    SpriteHits s cx cy n.toNat px py ↔
      RowsHit s.cfg.xwrap s.cfg.ywrap s.mem cx cy s.I.toNat (rowsDrawn s.cfg.ywrap cy n) px py := by
  constructor
  · rintro ⟨j, r, hj, hr, hset, hcol, hrow⟩
    exact ⟨r, lt_rowsDrawn_of_pixelTarget hr hrow, hrow, j, hj, hset, hcol⟩
  · rintro ⟨r, hr, hrow, j, hj, hset, hcol⟩
    exact ⟨j, r, hj, hr.trans_le (rowsDrawn_le ..), hset, hcol, hrow⟩

/-- The canvas a draw of `rows` rows ends with. -/
def State.drawnCanvas (s : State) (cx : Fin 64) (cy : Fin 32) (rows : Nat) : Canvas :=
  drawRows s.cfg.xwrap s.cfg.ywrap s.mem cx rows s.I.toNat cy ⟨s.fb, false⟩

/-- A draw of height `n` toggles the pixels R83 names. -/
theorem State.toggles_drawnCanvas (s : State) (cx : Fin 64) (cy : Fin 32) (n : BitVec 4) :
    Canvas.Toggles (fun px py => SpriteHits s cx cy n.toNat px py) ⟨s.fb, false⟩
      (s.drawnCanvas cx cy (rowsDrawn s.cfg.ywrap cy n)) := by
  have hrows := rowsDrawn_le s.cfg.ywrap cy n
  exact (toggles_drawRows _ _ _ cx (by omega) _ cy _).congr fun px py => spriteHits_iff s cx cy n px py

/-- VF after a draw is its collision. -/
theorem State.regF_drawSprite (s : State) (cx : Fin 64) (cy : Fin 32) (rows : Nat) :
    (s.drawSprite cx cy rows).reg regF = flagByte (s.drawnCanvas cx cy rows).collision :=
  State.reg_setReg_self _ regF _

theorem onlyChanges_drawSprite (s : State) (cx : Fin 64) (cy : Fin 32) (rows : Nat) :
    OnlyChanges [regF] [.framebuffer, .drawSignal] s (s.drawSprite cx cy rows) := by
  obtain ⟨hreg, hpart⟩ := onlyChanges_screen s (s.drawnCanvas cx cy rows).fb true
  exact (OnlyChanges.setReg ⟨fun r _ => hreg r List.not_mem_nil, hpart⟩ List.mem_cons_self _).setPc _

/-- The state with a new draw signal. -/
theorem onlyChanges_drawSignal (xs : List RegIdx) (s : State) (b : Bool) :
    OnlyChanges xs [.drawSignal] s { s with drawFlag := b } := by
  refine ⟨fun _ _ => rfl, fun p hp => ?_⟩
  cases p with
  | drawSignal => exact absurd List.mem_cons_self hp
  | memory => exact fun _ => rfl
  | _ => rfl

/-! ### The instruction (R78, R79) -/

/-- An origin that is drawn at, the rows inside memory. -/
theorem exec_drw_of_draw {s : State} {x y n : BitVec 4} {cx : Fin 64} {cy : Fin 32}
    (horigin : originPolicy s.cfg.xwrap s.cfg.ywrap (s.reg x) (s.reg y) = .draw cx cy)
    (hbounds : effectiveAddress s (rowsDrawn s.cfg.ywrap cy n) ≤ 0x1000 ∨ rowsDrawn s.cfg.ywrap cy n = 0) :
    exec (.drw x y n) s = .next (s.drawSprite cx cy (rowsDrawn s.cfg.ywrap cy n)) := by
  rw [exec, execDrw, horigin]
  exact congrArg _ (withBounds_of_le hbounds _ _ s)

/-- An origin out of range on a clipping axis. -/
theorem exec_drw_of_suppressed {s : State} {x y : BitVec 4}
    (horigin : originPolicy s.cfg.xwrap s.cfg.ywrap (s.reg x) (s.reg y) = .suppressed) (n : BitVec 4) :
    exec (.drw x y n) s = .next s.suppressDraw := by
  rw [exec, execDrw, horigin]

/-- Settles O54: the canvas of the draw, toggled row by row as the row loop goes. -/
theorem drawTogglesTheSpritesPixels : Obligations.DrawTogglesTheSpritesPixels := by
  unfold Obligations.DrawTogglesTheSpritesPixels
  intro s x y n cx cy rows hx hy hcx hcy hrows hbounds
  obtain ⟨cx, rfl⟩ : ∃ c : Fin 64, c.val = cx := ⟨⟨cx, by omega⟩, rfl⟩
  obtain ⟨cy, rfl⟩ : ∃ c : Fin 32, c.val = cy := ⟨⟨cy, by omega⟩, rfl⟩
  obtain rfl : rows = rowsDrawn s.cfg.ywrap cy n := hrows.trans (rowsDrawn_eq ..).symm
  have horigin := (originPolicy_eq_draw ..).2 ⟨hx, hy, hcx, hcy⟩
  have htoggles := s.toggles_drawnCanvas cx cy n
  refine ⟨_, exec_drw_of_draw horigin hbounds.symm, htoggles.toggled, htoggles.kept, fun hlit => ?_, fun hdark => ?_, rfl,
    rfl, onlyChanges_drawSprite ..⟩
  · rw [State.regF_drawSprite, htoggles.collision.2 (.inr hlit)]
    rfl
  · have hnone : (s.drawnCanvas cx cy (rowsDrawn s.cfg.ywrap cy n)).collision = false := by
      refine Bool.eq_false_iff.2 (htoggles.collision.not.2 ?_)
      rintro (hbefore | ⟨px, py, hhit, hlit⟩)
      · cases hbefore
      · exact Bool.false_ne_true ((hdark px py hhit).symm.trans hlit)
    rw [State.regF_drawSprite, hnone]
    rfl

/-- Settles O55: the origin policy answers a suppression, which reads and draws no row. -/
theorem clippedDrawIsSuppressed : Obligations.ClippedDrawIsSuppressed := by
  unfold Obligations.ClippedDrawIsSuppressed
  intro s x y n hclip hfaultX hfaultY
  have horigin := (originPolicy_eq_suppressed ..).2 ⟨hclip, hfaultX, hfaultY⟩
  exact ⟨_, exec_drw_of_suppressed horigin n, State.reg_setReg_self _ regF _, rfl, rfl,
    ((onlyChanges_drawSignal [regF] s _).setReg List.mem_cons_self _).setPc _⟩

/-! ### Drawing twice (R83) -/

/-- The rows a draw at `V[y]` reads lie inside memory (R80). -/
def DrawRowsFit (s : State) (y n : BitVec 4) : Prop :=
  let rows := if s.cfg.ywrap = .wrap then n.toNat else min n.toNat (32 - (s.reg y).toNat % 32)
  rows = 0 ∨ effectiveAddress s rows ≤ 0x1000

theorem boundsCondition_eq_none (count : Nat) (s : State) :
    fatalCondition.boundsCondition count s = none ↔ count = 0 ∨ effectiveAddress s count ≤ 0x1000 := by
  rw [fatalCondition.boundsCondition, effectiveAddress]
  split
  · simp only [reduceCtorEq, false_iff]
    omega
  · simp only [true_iff]
    omega

/-- A draw that meets no fatal condition has no faulting origin, and it is suppressed or its rows fit. -/
theorem noFault_of_fatalCondition_drw {s : State} {x y n : BitVec 4} (h : fatalCondition (.drw x y n) s = none) :
    ¬ (64 ≤ (s.reg x).toNat ∧ s.cfg.xwrap = .fault) ∧ ¬ (32 ≤ (s.reg y).toNat ∧ s.cfg.ywrap = .fault) ∧
      (DrawClipped s (s.reg x) (s.reg y) ∨ DrawRowsFit s y n) := by
  rw [fatalCondition] at h
  split at h
  · cases h
  · next hfaultX =>
    split at h
    · cases h
    · next hfaultY =>
      refine ⟨hfaultX, hfaultY, ?_⟩
      split at h
      · next hclip => exact .inl hclip
      · exact .inr ((boundsCondition_eq_none _ s).1 h)

/-- Whether a draw, suppressed or not, toggles a pixel (R79, R83). -/
def DrawHits (s : State) (x y n : BitVec 4) (px py : Nat) : Prop :=
  ¬ DrawClipped s (s.reg x) (s.reg y) ∧
    SpriteHits s ((s.reg x).toNat % 64) ((s.reg y).toNat % 32) n.toNat px py

/-- A condition that neither faults nor clips an axis can only be met on a wrapping one. -/
theorem WrapPolicy.eq_wrap {p : Prop} {policy : WrapPolicy} (hfault : ¬ (p ∧ policy = .fault))
    (hclip : ¬ (p ∧ policy = .clip)) (h : p) : policy = .wrap := by
  cases policy with
  | wrap => rfl
  | clip => exact absurd ⟨h, rfl⟩ hclip
  | fault => exact absurd ⟨h, rfl⟩ hfault

/-- What a draw that meets no fatal condition does to the framebuffer, suppressed or not. -/
theorem exec_drw_of_fatalCondition {s : State} {x y n : BitVec 4} (h : fatalCondition (.drw x y n) s = none) :
    ∃ t, exec (.drw x y n) s = .next t ∧
      (∀ (px : Fin 64) (py : Fin 32), DrawHits s x y n px py → t.fb.pixel px py = !s.fb.pixel px py) ∧
      (∀ (px : Fin 64) (py : Fin 32), ¬ DrawHits s x y n px py → t.fb.pixel px py = s.fb.pixel px py) ∧
      OnlyChanges [regF] [.framebuffer, .drawSignal] s t := by
  obtain ⟨hfaultX, hfaultY, hend⟩ := noFault_of_fatalCondition_drw h
  by_cases hclip : DrawClipped s (s.reg x) (s.reg y)
  · obtain ⟨t, hexec, -, -, -, hreg, hpart⟩ := clippedDrawIsSuppressed s x y n hclip hfaultX hfaultY
    have hfb : t.fb = s.fb := hpart .framebuffer (by decide)
    exact ⟨t, hexec, fun px py hhit => absurd hclip hhit.1, fun px py _ => by rw [hfb], hreg,
      fun p hp => hpart p fun hmem => hp (List.mem_cons_of_mem _ hmem)⟩
  · have hfit := hend.resolve_left hclip
    obtain ⟨hclipX, hclipY⟩ := not_or.1 hclip
    obtain ⟨t, hexec, htoggled, hkept, -, -, -, -, hframe⟩ :=
      drawTogglesTheSpritesPixels s x y n _ _ _ (WrapPolicy.eq_wrap hfaultX hclipX) (WrapPolicy.eq_wrap hfaultY hclipY)
        rfl rfl rfl hfit
    exact ⟨t, hexec, fun px py hhit => htoggled px py hhit.2,
      fun px py hmiss => hkept px py fun hhit => hmiss ⟨hclip, hhit⟩, hframe⟩

section
variable {s t : State} {x y : BitVec 4} (hframe : OnlyChanges [regF] [.framebuffer, .drawSignal] s t)
  (hx : x ≠ regF) (hy : y ≠ regF)
include hframe hx hy

/-- After a draw whose origin is not read from VF a second one meets the same conditions. -/
theorem OnlyChanges.fatalCondition_drw (n : BitVec 4) :
    fatalCondition (.drw x y n) t = fatalCondition (.drw x y n) s := by
  obtain ⟨hreg, hpart⟩ := hframe
  have hI : t.I = s.I := hpart .index (by decide)
  have hcfg : t.cfg = s.cfg := hpart .configuration (by decide)
  simp only [fatalCondition, fatalCondition.boundsCondition, hreg x (by simpa using hx), hreg y (by simpa using hy), hI,
    hcfg]

/-- And it hits the same pixels. -/
theorem OnlyChanges.drawHits_iff (n : BitVec 4) (px py : Nat) : DrawHits t x y n px py ↔ DrawHits s x y n px py := by
  obtain ⟨hreg, hpart⟩ := hframe
  have hI : t.I = s.I := hpart .index (by decide)
  have hmem : ∀ a, t.byteAt a = s.byteAt a := hpart .memory (by decide)
  have hcfg : t.cfg = s.cfg := hpart .configuration (by decide)
  simp only [DrawHits, DrawClipped, SpriteHits, hreg x (by simpa using hx), hreg y (by simpa using hy), hI, hmem, hcfg]

end

/-- Settles O56: the second draw hits the pixels of the first, and a pixel toggled twice is as it was. -/
theorem drawingTwiceRestoresTheScreen : Obligations.DrawingTwiceRestoresTheScreen := by
  unfold Obligations.DrawingTwiceRestoresTheScreen
  intro s x y n hx hy hfatal
  obtain ⟨t, hexec, htoggled, hkept, hframe⟩ := exec_drw_of_fatalCondition hfatal
  obtain ⟨u, hexec', htoggled', hkept', -⟩ :=
    exec_drw_of_fatalCondition ((hframe.fatalCondition_drw hx hy n).trans hfatal)
  refine ⟨t, u, hexec, hexec', Frame.ext_pixel fun px py => ?_⟩
  have hsame := hframe.drawHits_iff hx hy n px py
  by_cases hhit : DrawHits s x y n px py
  · rw [htoggled' px py (hsame.2 hhit), htoggled px py hhit, Bool.not_not]
  · rw [hkept' px py (hsame.not.2 hhit), hkept px py hhit]

end Sys2Proof.Machine
end

section
/-! PROOFS. The keyboard instructions: the two skips on a key, the key wait, and the tick that a key wait holds
(spec/44_keyboard.md R84 to R86, spec/60_exceptions.md R115, R119). -/

namespace Sys2Proof.Machine

/-! ### What one change after another, a port's draw and a mark may change -/

theorem Part.Same.trans {s t u : State} {p : Part} (h : p.Same s t) (h' : p.Same t u) : p.Same s u := by
  cases p with
  | memory => exact fun a => (h' a).trans (h a)
  | _ => exact Eq.trans h' h

theorem OnlyChanges.trans {xs : List RegIdx} {ps : List Part} {s t u : State} (h : OnlyChanges xs ps s t)
    (h' : OnlyChanges xs ps t u) : OnlyChanges xs ps s u := by
  obtain ⟨hreg, hpart⟩ := h
  obtain ⟨hreg', hpart'⟩ := h'
  exact ⟨fun r hr => (hreg' r hr).trans (hreg r hr), fun p hp => (hpart p hp).trans (hpart' p hp)⟩

theorem OnlyChanges.mono {xs : List RegIdx} {ps qs : List Part} {s t : State} (h : OnlyChanges xs ps s t)
    (hsub : ps ⊆ qs) : OnlyChanges xs qs s t := by
  obtain ⟨hreg, hpart⟩ := h
  exact ⟨hreg, fun p hp => hpart p fun hps => hp (hsub hps)⟩

/-- The state with a new run state, draw signal, port and key-wait mark, each named in `ps` where it is not as it
was. -/
theorem onlyChanges_control (xs : List RegIdx) {ps : List Part} {s : State} {run : RunState} {draw : Bool}
    {ports : Ports} {mark : Bool} (hrun : .runState ∈ ps ∨ run = s.run := by simp)
    (hdraw : .drawSignal ∈ ps ∨ draw = s.drawFlag := by simp) (hports : .ports ∈ ps ∨ ports = s.ports := by simp)
    (hmark : .keyWaiting ∈ ps ∨ mark = s.keyWaiting := by simp) :
    OnlyChanges xs ps s { s with run := run, drawFlag := draw, ports := ports, keyWaiting := mark } := by
  refine ⟨fun _ _ => rfl, fun p hp => ?_⟩
  cases p with
  | runState => exact hrun.resolve_left hp
  | drawSignal => exact hdraw.resolve_left hp
  | ports => exact hports.resolve_left hp
  | keyWaiting => exact hmark.resolve_left hp
  | memory => exact fun _ => rfl
  | _ => rfl

theorem onlyChanges_drawKeyDown (s : State) : OnlyChanges [] [.ports] s s.drawKeyDown.2 := onlyChanges_control []

theorem onlyChanges_beginTick (s : State) : OnlyChanges [] [.drawSignal, .keyWaiting] s s.beginTick :=
  onlyChanges_control []

/-! ### The skips on a key (R84, R85) -/

theorem keyOk_iff (k : Byte) : keyOk k ↔ k.toNat < 16 := decide_eq_true_iff

theorem exec_skp_of_lt {s : State} {x : RegIdx} (h : (s.reg x).toNat < 16) :
    exec (.skp x) s = .next (s.drawKeyDown.2.skipIf s.drawKeyDown.1) := by
  rw [exec, execSkp, if_pos ((keyOk_iff _).2 h)]

theorem exec_skp_of_le {s : State} {x : RegIdx} (h : 16 ≤ (s.reg x).toNat) :
    exec (.skp x) s = .next (raiseFatal (.keyRange (s.reg x)) (some (encode (.skp x))) s) := by
  rw [exec, execSkp, if_neg ((keyOk_iff _).not.2 (Nat.not_lt.2 h))]

theorem exec_sknp_of_lt {s : State} {x : RegIdx} (h : (s.reg x).toNat < 16) :
    exec (.sknp x) s = .next (s.drawKeyDown.2.skipIf (!s.drawKeyDown.1)) := by
  rw [exec, execSknp, if_pos ((keyOk_iff _).2 h)]

theorem exec_sknp_of_le {s : State} {x : RegIdx} (h : 16 ≤ (s.reg x).toNat) :
    exec (.sknp x) s = .next (raiseFatal (.keyRange (s.reg x)) (some (encode (.sknp x))) s) := by
  rw [exec, execSknp, if_neg ((keyOk_iff _).not.2 (Nat.not_lt.2 h))]

/-- A skip after one query of the key port, on a test that decides `p`, moves `pc` by 4 or by 2 and the port alone. -/
theorem State.skipIf_drawKeyDown_completes (s : State) {b : Bool} {p : Prop} [Decidable p] (h : b = true ↔ p) :
    ∃ t, (.next (s.drawKeyDown.2.skipIf b) : Host.Outcome State Fault Refusal) = .next t ∧
      t.pc = (if p then s.pc + 4#16 else s.pc + 2#16) ∧ t.ports = s.drawKeyDown.2.ports ∧
      OnlyChanges [] [.ports] s t :=
  ⟨_, rfl, by simp only [State.skipIf_pc, State.drawKeyDown_pc, h], rfl, (onlyChanges_drawKeyDown s).setPc _⟩

/-- Settles O51: below 16 both are skips after one query, on its answer and on the opposite; from 16 on both raise the
fatal condition. -/
theorem skipOnKey : Obligations.SkipOnKey := by
  unfold Obligations.SkipOnKey
  refine fun s x => ⟨fun hkey => ⟨?_, ?_⟩, fun hkey i hi => ?_⟩
  · rw [exec_skp_of_lt hkey]
    exact s.skipIf_drawKeyDown_completes Iff.rfl
  · rw [exec_sknp_of_lt hkey]
    exact s.skipIf_drawKeyDown_completes (Bool.not_eq_true' _).to_iff
  · obtain rfl | rfl := hi
    · exact ⟨_, exec_skp_of_le hkey, rfl, rfl, onlyChanges_raiseFatal _ _ s⟩
    · exact ⟨_, exec_sknp_of_le hkey, rfl, rfl, onlyChanges_raiseFatal _ _ s⟩

/-! ### The key wait (R86) -/

/-- The contract is broken exactly by an answer of 16 or more without a quit; a free answer is never one (D17). -/
theorem State.keyWaitBreach_eq_some_iff (s : State) (key : Byte) :
    s.keyWaitBreach = some key ↔ s.drawKeyWait.1 = .answered key false ∧ 16 ≤ key.toNat := by
  simp only [State.keyWaitBreach, State.drawKeyWait, Ports.nextKeyWait]
  cases s.ports.keyWait with
  | nil =>
    refine ⟨nofun, fun ⟨hanswer, hkey⟩ => ?_⟩
    exact absurd (freeKeyWaitAnswer_key_lt hanswer) (Nat.not_lt.2 hkey)
  | cons a rest =>
    cases a with
    | pending => simp
    | answered k quit =>
      cases quit with
      | true => simp
      | false =>
        by_cases hk : k.toNat < 16
        · simpa [keyOk, hk] using fun h => h ▸ hk
        · simpa [keyOk, hk] using fun h => h ▸ Nat.not_lt.1 hk

theorem exec_ldVxK_of_breach {s : State} {key : Byte} (hanswer : s.drawKeyWait.1 = .answered key false)
    (hkey : 16 ≤ key.toNat) (x : RegIdx) : exec (.ldVxK x) s = .refused (.keyWaitOutOfContract key) := by
  rw [exec, execLdVxK, (s.keyWaitBreach_eq_some_iff key).2 ⟨hanswer, hkey⟩]

/-- An answer inside the port's contract is carried out. -/
theorem exec_ldVxK_of_contract {s : State} {a : KeyWaitAnswer} (hanswer : s.drawKeyWait.1 = a)
    (hcontract : ∀ key, a = .answered key false → key.toNat < 16) (x : RegIdx) :
    exec (.ldVxK x) s = .next (s.drawKeyWait.2.finishKeyWait x a) := by
  have hbreach : s.keyWaitBreach = none := by
    refine Option.eq_none_iff_forall_ne_some.2 fun key hsome => ?_
    obtain ⟨hkeyAnswer, hkey⟩ := (s.keyWaitBreach_eq_some_iff key).1 hsome
    exact absurd (hcontract key (hanswer.symm.trans hkeyAnswer)) (Nat.not_lt.2 hkey)
  rw [exec, execLdVxK, hbreach, hanswer]

/-- Settles O52, answer by answer. -/
theorem keyWaitStoresTheKey : Obligations.KeyWaitStoresTheKey := by
  unfold Obligations.KeyWaitStoresTheKey
  refine fun s x => ⟨fun key ha hkey => ?_, fun key ha => ?_, fun ha => ?_, fun key ha hkey => ?_⟩
  · have hexec := exec_ldVxK_of_contract ha (fun k hk => by cases hk; exact hkey) x
    exact ⟨_, hexec, State.reg_setReg_self _ x key, rfl, rfl, rfl,
      ((onlyChanges_control [x]).setReg List.mem_cons_self key).setPc _⟩
  · exact ⟨_, exec_ldVxK_of_contract ha nofun x, rfl, rfl, rfl, rfl, onlyChanges_control []⟩
  · exact ⟨_, exec_ldVxK_of_contract ha nofun x, rfl, rfl, rfl, onlyChanges_control []⟩
  · exact exec_ldVxK_of_breach ha hkey x

/-! ### The tick a key wait holds (R115, R119) -/

/-- Two bytes that decode are a word that decodes. -/
theorem decodeWord_of_decode {hi lo : Byte} {i : Instr} (h : decode [hi, lo] = .ok (i, [])) :
    decodeWord (wordOfBytes hi lo) = some i := by
  rw [decode] at h
  split at h
  · next hword => cases h; exact hword
  · cases h

/-- A running tick inside the program and inside memory executes what the next two bytes decode to. -/
theorem step_of_decode {s : State} {i : Instr} (hrun : s.run = .running) (hpc : s.pc.toNat < 0x200 + s.romlength)
    (hbounds : s.pc.toNat + 1 ≤ 0xFFF)
    (hdecode : decode [s.byteAt s.pc.toNat, s.byteAt (s.pc.toNat + 1)] = .ok (i, [])) :
    step s = andThen (exec i s.beginTick) State.endTick := by
  have hfetch : s.beginTick.fetch = .word (wordOfBytes (s.byteAt s.pc.toNat) (s.byteAt (s.pc.toNat + 1))) :=
    State.fetch_of_le (by rw [State.beginTick_pc]; omega)
  rw [step_of_running hrun (s.pastProgram_eq_false_iff.2 hpc), State.interpret, hfetch]
  simp only [execWord, decodeWord_of_decode hdecode]

/-- Nothing follows an instruction that is still waiting for a key (R119). -/
theorem State.endTick_of_keyWaiting {s : State} (h : s.keyWaiting = true) : s.endTick = s := by
  rw [State.endTick_eq, if_neg fun hgo => Bool.false_ne_true (hgo.2.symm.trans h)]

/-- Settles O53: the tick is its beginning and the key wait, after which, waiting or halted, nothing follows. -/
theorem keyWaitHoldsTheTick : Obligations.KeyWaitHoldsTheTick := by
  unfold Obligations.KeyWaitHoldsTheTick
  intro s x hrun hpc hbounds hdecode
  have hstep := step_of_decode hrun hpc hbounds hdecode
  obtain ⟨-, hquit, hpending, -⟩ := keyWaitStoresTheKey s.beginTick x
  refine ⟨fun ha => ?_, fun key ha => ?_⟩
  · obtain ⟨t, hexec, htpc, hwaiting, hports, hframe⟩ := hpending ha
    refine ⟨t, ?_, htpc, hports, ((onlyChanges_beginTick s).mono (by simp)).trans (hframe.mono (by simp))⟩
    rw [hstep, hexec, andThen_next, State.endTick_of_keyWaiting hwaiting]
  · obtain ⟨t, hexec, hhalted, htpc, -, hports, hframe⟩ := hquit key ha
    refine ⟨t, ?_, hhalted, htpc, hports, ((onlyChanges_beginTick s).mono (by simp)).trans (hframe.mono (by simp))⟩
    rw [hstep, hexec, andThen_next, State.endTick_of_run_ne (by simp [hhalted])]

end Sys2Proof.Machine
end

section
/-! PROOFS. The timer moves, the glyph address, the decimal digits, and the block store and load of registers
(spec/45_timer_index_memory.md R87 to R89, R91 to R94). -/

namespace Sys2Proof.Machine

/-! ### The timers and the glyph address (R87 to R89, R91) -/

/-- The state with new timers, each named in `ps` where it is not as it was. -/
theorem onlyChanges_timers {ps : List Part} {s : State} {dt st : Byte}
    (hdt : .delayTimer ∈ ps ∨ dt = s.dt := by simp) (hst : .soundTimer ∈ ps ∨ st = s.st := by simp) :
    OnlyChanges [] ps s { s with dt := dt, st := st } := by
  refine ⟨fun _ _ => rfl, fun p hp => ?_⟩
  cases p with
  | delayTimer => exact hdt.resolve_left hp
  | soundTimer => exact hst.resolve_left hp
  | memory => exact fun _ => rfl
  | _ => rfl

/-- At most 0x050 + 5 * 0xFF, so the 16-bit address does not wrap (R91). -/
theorem toNat_glyphAddress (a : Byte) : (glyphAddress a).toNat = 0x050 + 5 * a.toNat := by
  have := a.isLt
  exact Nat.mod_eq_of_lt (by simp only [fontBase]; omega)

/-! ### A store at `I` -/

/-- Inside the bytes stored an address reads its byte; past them the list gives no byte and the old one stays. -/
theorem State.byteAt_storeAtIndex_add (s : State) (bytes : List Byte) (k : Nat) :
    (s.storeAtIndex bytes).byteAt (effectiveAddress s 0 + k) =
      bytes.getD k (s.byteAt (effectiveAddress s 0 + k)) := by
  rw [State.byteAt, State.storeAtIndex_mem, Memory.read_writeBytes, if_pos (Nat.le_add_right _ _),
    Nat.add_sub_cancel_left, State.byteAt]

theorem State.byteAt_storeAtIndex_outside (s : State) {bytes : List Byte} {b : Nat}
    (h : b < effectiveAddress s 0 ∨ effectiveAddress s 0 + bytes.length ≤ b) :
    (s.storeAtIndex bytes).byteAt b = s.byteAt b := by
  rw [State.byteAt, State.storeAtIndex_mem, Memory.read_writeBytes_outside bytes s.mem _ b h, State.byteAt]

theorem onlyChanges_storeAtIndex (s : State) (bytes : List Byte) :
    OnlyChanges [] [.memory] s (s.storeAtIndex bytes) := by
  refine ⟨fun _ _ => rfl, fun p hp => ?_⟩
  cases p with
  | memory => exact absurd List.mem_cons_self hp
  | _ => rfl

/-! ### The decimal digits (R92) -/

theorem exec_ldB_of_le {s : State} (h : effectiveAddress s 0 + 2 ≤ 0xFFF) (x : RegIdx) :
    exec (.ldB x) s = .next (s.storeAtIndex (bcdDigits (s.reg x))) := by
  rw [exec, execLdB, withBounds_of_le (by omega)]

/-- Each digit is below 256, so the byte stored for it is the same number. -/
theorem State.toNat_byteAt_storeAtIndex_bcdDigits (s : State) (a : Byte) :
    ((s.storeAtIndex (bcdDigits a)).byteAt (effectiveAddress s 0)).toNat = a.toNat / 100 ∧
    ((s.storeAtIndex (bcdDigits a)).byteAt (effectiveAddress s 0 + 1)).toNat = a.toNat / 10 % 10 ∧
    ((s.storeAtIndex (bcdDigits a)).byteAt (effectiveAddress s 0 + 2)).toNat = a.toNat % 10 := by
  have := a.isLt
  have hread := s.byteAt_storeAtIndex_add (bcdDigits a)
  refine ⟨(congrArg _ (hread 0)).trans ?_, (congrArg _ (hread 1)).trans ?_, (congrArg _ (hread 2)).trans ?_⟩ <;>
    exact Nat.mod_eq_of_lt (by omega)

/-! ### The block store and the block load (R93, R94) -/

/-- The block load once its bounds check has passed. -/
def State.loadAtIndex (s : State) (x : RegIdx) : State :=
  { s with v := loadRegisters s.mem (effectiveAddress s 0) (x.toNat + 1) s.v }.advance

theorem exec_storeRegs_of_le {s : State} {x : RegIdx} (h : effectiveAddress s 0 + x.toNat ≤ 0xFFF) :
    exec (.storeRegs x) s = .next (s.storeAtIndex (s.regsUpTo x)) := by
  rw [exec, execStoreRegs, withBounds_of_le (by omega)]

theorem exec_loadRegs_of_le {s : State} {x : RegIdx} (h : effectiveAddress s 0 + x.toNat ≤ 0xFFF) :
    exec (.loadRegs x) s = .next (s.loadAtIndex x) := by
  rw [exec, execLoadRegs, withBounds_of_le (by omega), State.loadAtIndex]

theorem State.reg_loadAtIndex (s : State) (x r : RegIdx) :
    (s.loadAtIndex x).reg r =
      if r.toNat ≤ x.toNat then s.byteAt (effectiveAddress s 0 + r.toNat) else s.reg r := by
  have h := getElem_loadRegisters s.mem (effectiveAddress s 0) (x.toNat + 1) s.v r.toNat r.isLt
  simp only [Nat.lt_succ_iff] at h
  exact h

/-- The registers loaded are the instruction's destinations. -/
theorem onlyChanges_loadAtIndex (s : State) (x : RegIdx) :
    OnlyChanges (destinations (.loadRegs x)) [] s (s.loadAtIndex x) := by
  refine ⟨fun r hr => ?_, fun p _ => ?_⟩
  · rw [State.reg_loadAtIndex, if_neg ((mem_destinations_loadRegs x r).not.1 hr)]
  · cases p with
    | memory => exact fun _ => rfl
    | _ => rfl

/-! ### The obligations -/

/-- Settles O45: the address fits 16 bits, and `I` alone is written. -/
theorem glyphAddressOfDigit : Obligations.GlyphAddressOfDigit := by
  unfold Obligations.GlyphAddressOfDigit
  exact fun s x => ⟨_, rfl, toNat_glyphAddress _, rfl, (onlyChanges_index s _).setPc _⟩

/-- Settles O46: one register write and two timer writes. -/
theorem timerMoves : Obligations.TimerMoves := by
  unfold Obligations.TimerMoves
  refine fun s x => ⟨?_, ?_, ?_⟩
  · exact ⟨_, rfl, s.reg_setReg_self x s.dt, rfl, onlyChanges_setReg_advance s x s.dt⟩
  · exact ⟨_, rfl, rfl, rfl, OnlyChanges.setPc onlyChanges_timers _⟩
  · exact ⟨_, rfl, rfl, rfl, OnlyChanges.setPc onlyChanges_timers _⟩

/-- Settles O47: a store of the three digits at `I`. -/
theorem bcdStoresThreeDigits : Obligations.BcdStoresThreeDigits := by
  unfold Obligations.BcdStoresThreeDigits
  rintro s x _ rfl hbounds
  obtain ⟨hhundreds, htens, hones⟩ := s.toNat_byteAt_storeAtIndex_bcdDigits (s.reg x)
  exact ⟨_, exec_ldB_of_le hbounds x, hhundreds, htens, hones, fun b hb => s.byteAt_storeAtIndex_outside hb, rfl,
    onlyChanges_storeAtIndex s _⟩

/-- Settles O48: a store of V0 to Vx at `I`. -/
theorem blockStoreWritesRegisters : Obligations.BlockStoreWritesRegisters := by
  unfold Obligations.BlockStoreWritesRegisters
  rintro s x _ rfl hbounds
  refine ⟨_, exec_storeRegs_of_le hbounds, fun r hr => ?_, fun b hb => ?_, rfl, onlyChanges_storeAtIndex s _⟩
  · rw [State.byteAt_storeAtIndex_add, State.getD_regsUpTo s hr]
  · exact s.byteAt_storeAtIndex_outside (by rwa [State.length_regsUpTo])

/-- Settles O49: the registers loaded are those up to Vx, each from its own address. -/
theorem blockLoadReadsRegisters : Obligations.BlockLoadReadsRegisters := by
  unfold Obligations.BlockLoadReadsRegisters
  rintro s x _ rfl hbounds
  refine ⟨_, exec_loadRegs_of_le hbounds, fun r hr => ?_, fun r hr => ?_, rfl, onlyChanges_loadAtIndex s x⟩
  · rw [State.reg_loadAtIndex, if_pos hr]
  · rw [State.reg_loadAtIndex, if_neg (Nat.not_le.2 hr)]

/-- Settles O50: the load reads at `I + r` what the store put there, which is the old `V[r]`. -/
theorem blockStoreThenLoadRestores : Obligations.BlockStoreThenLoadRestores := by
  unfold Obligations.BlockStoreThenLoadRestores
  intro s x hbounds
  obtain ⟨t, hstore, hstored, -⟩ := blockStoreWritesRegisters s x s.I.toNat rfl hbounds
  refine ⟨t, hstore, fun u hI hmem => ?_⟩
  obtain ⟨v, hload, hloaded, -⟩ := blockLoadReadsRegisters u x s.I.toNat (congrArg BitVec.toNat hI) hbounds
  exact ⟨v, hload, fun r hr => by rw [hloaded r hr, hmem, hstored r hr]⟩

end Sys2Proof.Machine
end

section
/-! PROOFS. The tick on an unrecognised word (spec/46_unrecognised.md R95, spec/60_exceptions.md R115). -/

namespace Sys2Proof.Machine

/-- Two bytes that decode to an unrecognised word are a word that matches no row, and the word reported is
theirs (R31, R49). -/
theorem decodeWord_of_decode_unrecognised {hi lo : Byte} {w : Word} (h : decode [hi, lo] = .error (.unrecognised w)) :
    decodeWord (wordOfBytes hi lo) = none ∧ wordOfBytes hi lo = w := by
  rw [decode] at h
  split at h
  · cases h
  · next hword => cases h; exact ⟨hword, rfl⟩

/-- Two bytes of memory at the `pc` that are no instruction are reported and skipped (R95). -/
theorem State.interpret_of_decode_unrecognised {s : State} {w : Word} (hbounds : s.pc.toNat + 1 ≤ 0xFFF)
    (hdecode : decode [s.byteAt s.pc.toNat, s.byteAt (s.pc.toNat + 1)] = .error (.unrecognised w)) :
    s.interpret = .next (execUnrecognised w s) := by
  obtain ⟨hnone, rfl⟩ := decodeWord_of_decode_unrecognised hdecode
  rw [State.interpret, State.fetch_of_le (by omega)]
  simp only [execWord, hnone]

/-- Settles O7: the word is interpreted after the beginning of the tick, which leaves the `pc` and memory. -/
theorem stepReportsUnrecognisedWord : Obligations.StepReportsUnrecognisedWord := by
  unfold Obligations.StepReportsUnrecognisedWord
  intro s w hrun hpc hbounds hdecode
  have hinterpret : s.beginTick.interpret = .next (execUnrecognised w s.beginTick) :=
    State.interpret_of_decode_unrecognised hbounds hdecode
  rw [step_of_running hrun (s.pastProgram_eq_false_iff.2 hpc), hinterpret, andThen_next]
  rfl

end Sys2Proof.Machine
end

section
/-! PROOFS. The compositor: what a presentation shows and changes, the display calls it stands for, and that no tick
reads what it writes (spec/48_frame_compositor.md R98 to R102). -/

namespace Sys2Proof.Machine

/-! ### A presentation (R98 to R100) -/

/-- The blend at one byte (R99). -/
theorem byte_blend (f : Frame) (hist : List Frame) (r : Fin 32) (c : Fin 8) :
    (blend f hist).byte r c = hist.foldl (fun b g => b ||| g.byte r c) (f.byte r c) := by
  induction hist generalizing f with
  | nil => rw [blend, List.foldl_nil, List.foldl_nil]
  | cons g rest ih => rw [blend, List.foldl_cons, List.foldl_cons, ← Frame.byte_or, ← ih, blend]

/-- The blend at one pixel (R99). -/
theorem pixel_blend (f : Frame) (hist : List Frame) (px : Fin 64) (py : Fin 32) :
    (blend f hist).pixel px py = (f.pixel px py || hist.any fun g => g.pixel px py) := by
  induction hist generalizing f with
  | nil => rw [blend, List.foldl_nil, List.any_nil, Bool.or_false]
  | cons g rest ih => rw [blend, List.foldl_cons, List.any_cons, ← Bool.or_assoc, ← Frame.pixel_or, ← ih, blend]

/-- Every frame but the one just inserted comes from one position nearer the head (R100). -/
theorem getElem?_advanceRing_succ {depth k : Nat} (hk : k + 1 < depth) (f : Frame) (hist : List Frame) :
    (advanceRing depth f hist)[k + 1]? = hist[k]? := by
  rw [advanceRing, List.getElem?_take_of_lt hk, List.getElem?_cons_succ]

theorem getElem?_advanceRing_zero {depth : Nat} (h : 1 ≤ depth) (f : Frame) (hist : List Frame) :
    (advanceRing depth f hist)[0]? = some f := by
  rw [advanceRing, List.getElem?_take_of_lt h, List.getElem?_cons_zero]

theorem onlyChanges_compose (s : State) : OnlyChanges [] [.events, .history] s s.compose := by
  refine ⟨fun _ _ => rfl, fun p hp => ?_⟩
  cases p with
  | events | history => simp at hp
  | memory => exact fun _ => rfl
  | _ => rfl

/-- Settles O57: what is presented is the blend, and the new ring is the raw frame before the old ring, cut at DEPTH. -/
theorem presentationBlendsTheRing : Obligations.PresentationBlendsTheRing := by
  unfold Obligations.PresentationBlendsTheRing
  intro s hdepth hlength
  exact ⟨blend s.fb s.hist, rfl, byte_blend s.fb s.hist, pixel_blend s.fb s.hist,
    getElem?_advanceRing_zero hdepth s.fb s.hist, fun k hk => getElem?_advanceRing_succ hk s.fb s.hist,
    length_advanceRing s.fb hlength, rfl, onlyChanges_compose s⟩

/-! ### The display calls (R101) -/

/-- The lit columns of one row, left to right. -/
def litColumns (out : Frame) (py : Fin 32) : List (Fin 64) := (List.finRange 64).filter fun px => out.pixel px py

/-- The lit pixels of a bitmap in row-major order. -/
def litInOrder (out : Frame) : List (Fin 64 × Fin 32) :=
  (List.finRange 32).flatMap fun py => (litColumns out py).map fun px => (px, py)

theorem displayCalls_eq (out : Frame) :
    displayCalls out = [.clear] ++ (litInOrder out).map (fun p => .setPixel p.1 p.2) ++ [.present] := by
  simp only [displayCalls, litInOrder, List.map_flatMap, List.map_map]
  rfl

theorem mem_litColumns {out : Frame} {px : Fin 64} {py : Fin 32} :
    px ∈ litColumns out py ↔ out.pixel px py = true := by
  simp [litColumns]

theorem mem_litInOrder (out : Frame) (p : Fin 64 × Fin 32) : p ∈ litInOrder out ↔ out.pixel p.1 p.2 = true := by
  obtain ⟨px, py⟩ := p
  simp [litInOrder, mem_litColumns]

/-- Each row is in rising order of column, and the rows are in rising order. -/
theorem pairwise_litInOrder (out : Frame) :
    (litInOrder out).Pairwise fun p q => p.2 < q.2 ∨ (p.2 = q.2 ∧ p.1 < q.1) := by
  refine List.pairwise_flatMap.2 ⟨fun py _ => ?_, (List.pairwise_lt_finRange 32).imp fun hrows p hp q hq => .inl ?_⟩
  · exact List.pairwise_map.2 (((List.pairwise_lt_finRange 64).filter _).imp fun hlt => .inr ⟨rfl, hlt⟩)
  · obtain ⟨-, -, rfl⟩ := List.mem_map.1 hp
    obtain ⟨-, -, rfl⟩ := List.mem_map.1 hq
    exact hrows

/-- Settles O58, with the lit pixels in row-major order. -/
theorem displaySetsTheLitPixels : Obligations.DisplaySetsTheLitPixels := by
  unfold Obligations.DisplaySetsTheLitPixels
  exact fun out => ⟨litInOrder out, displayCalls_eq out, mem_litInOrder out, pairwise_litInOrder out⟩

/-! ### No instruction reads the ring or the Present events (R102) -/

@[simp] theorem State.withoutCompositor_cfg (s : State) : s.withoutCompositor.cfg = s.cfg := rfl
@[simp] theorem State.withoutCompositor_run (s : State) : s.withoutCompositor.run = s.run := rfl
@[simp] theorem State.reg_withoutCompositor (s : State) (x : RegIdx) : s.withoutCompositor.reg x = s.reg x := rfl
@[simp] theorem State.fetch_withoutCompositor (s : State) : s.withoutCompositor.fetch = s.fetch := rfl
@[simp] theorem State.pastProgram_withoutCompositor (s : State) : s.withoutCompositor.pastProgram = s.pastProgram := rfl
@[simp] theorem State.keyWaitBreach_withoutCompositor (s : State) :
    s.withoutCompositor.keyWaitBreach = s.keyWaitBreach := rfl

/-- A branch on what the compositor does not write does the same with its part left out, where both ways do. -/
theorem withoutCompositor_ite {p : Prop} [Decidable p] {s t s' t' : State} (hs : s.withoutCompositor = s')
    (ht : t.withoutCompositor = t') : (if p then s else t).withoutCompositor = if p then s' else t' := by
  rw [apply_ite State.withoutCompositor, hs, ht]

/-- So does a checked access, where its body does. -/
theorem withoutCompositor_withBounds {base count : Nat} {w : Option Word} {body : State → State} {s : State}
    (hbody : (body s).withoutCompositor = body s.withoutCompositor) :
    (withBounds base count w body s).withoutCompositor = withBounds base count w body s.withoutCompositor := by
  unfold withBounds
  split
  · exact withoutCompositor_raiseFatal ..
  · exact hbody

/-- So does the host's answer to a key wait. -/
theorem withoutCompositor_finishKeyWait (s : State) (x : RegIdx) (a : KeyWaitAnswer) :
    (s.finishKeyWait x a).withoutCompositor = s.withoutCompositor.finishKeyWait x a := by
  cases a with
  | pending => rfl
  | answered key quit => cases quit <;> rfl

/-- So does every instruction. Those named below branch; every other one is a single update. -/
theorem exec_withoutCompositor (i : Instr) (s : State) :
    exec i s.withoutCompositor = outcomeWithoutCompositor (exec i s) := by
  cases i
  case ldVxK x =>
    simp only [exec, execLdVxK, State.keyWaitBreach_withoutCompositor]
    cases s.keyWaitBreach with
    | some key => rfl
    | none => exact congrArg _ (withoutCompositor_finishKeyWait s.drawKeyWait.2 x s.drawKeyWait.1).symm
  case drw x y n =>
    simp only [exec, execDrw, State.withoutCompositor_cfg, State.reg_withoutCompositor]
    cases originPolicy s.cfg.xwrap s.cfg.ywrap (s.reg x) (s.reg y) with
    | faultX | faultY => exact congrArg _ (withoutCompositor_raiseFatal ..).symm
    | suppressed => rfl
    | draw cx cy =>
      refine congrArg Host.Outcome.next (Eq.symm ?_)
      exact withoutCompositor_withBounds rfl
  all_goals refine congrArg Host.Outcome.next (Eq.symm ?_)
  case ret => exact withoutCompositor_ite (withoutCompositor_raiseFatal ..) rfl
  case jp | skp | sknp => exact withoutCompositor_ite rfl (withoutCompositor_raiseFatal ..)
  case call =>
    exact withoutCompositor_ite (withoutCompositor_raiseFatal ..)
      (withoutCompositor_ite rfl (withoutCompositor_raiseFatal ..))
  case ldB | storeRegs | loadRegs => exact withoutCompositor_withBounds rfl
  all_goals rfl

/-- So does the interpretation of one word. -/
theorem State.interpret_withoutCompositor (s : State) :
    s.withoutCompositor.interpret = outcomeWithoutCompositor s.interpret := by
  rw [State.interpret, State.interpret, State.fetch_withoutCompositor]
  cases s.fetch with
  | outOfBounds addr => exact congrArg _ (withoutCompositor_raiseFatal ..).symm
  | word w =>
    simp only [execWord]
    cases decodeWord w with
    | some i => exact exec_withoutCompositor i s
    | none => exact congrArg _ (withoutCompositor_execUnrecognised w s).symm

/-! ### Nor does the rest of a tick -/

theorem State.withoutCompositor_timerEvent (s : State) :
    s.timerEvent.withoutCompositor = s.withoutCompositor.timerEvent := by
  refine withoutCompositor_ite rfl ?_
  simp [State.emit, State.withoutCompositor, Event.isPresent]

theorem State.withoutCompositor_countIfRunning (s : State) :
    s.countIfRunning.withoutCompositor = s.withoutCompositor.countIfRunning :=
  withoutCompositor_ite (withoutCompositor_ite (State.withoutCompositor_timerEvent _) rfl) rfl

/-- Removing step 5 from a tick is not seen outside the compositor's part. -/
theorem State.withoutCompositor_finishTick (s : State) :
    s.finishTick.withoutCompositor = s.finishTickNoCompose.withoutCompositor := by
  have hpresent : s.pollHost.presentIfDrawn.withoutCompositor = s.pollHost.withoutCompositor :=
    (withoutCompositor_ite (State.withoutCompositor_compose _) rfl).trans (ite_self _)
  rw [State.finishTick, State.finishTickNoCompose, State.withoutCompositor_countIfRunning, hpresent,
    State.withoutCompositor_countIfRunning]

theorem State.withoutCompositor_endTick (s : State) :
    s.endTick.withoutCompositor = s.endTickNoCompose.withoutCompositor := by
  rw [State.endTick_eq, State.endTickNoCompose, apply_ite State.withoutCompositor, apply_ite State.withoutCompositor,
    State.withoutCompositor_finishTick]

theorem State.withoutCompositor_finishTickNoCompose (s : State) :
    s.finishTickNoCompose.withoutCompositor = s.withoutCompositor.finishTickNoCompose :=
  s.pollHost.withoutCompositor_countIfRunning

theorem State.withoutCompositor_endTickNoCompose (s : State) :
    s.endTickNoCompose.withoutCompositor = s.withoutCompositor.endTickNoCompose :=
  withoutCompositor_ite s.withoutCompositor_finishTickNoCompose rfl

/-! ### Ticks and runs (R102) -/

/-- Two continuations that agree but for the compositor's part, after the same outcome. -/
theorem outcomeWithoutCompositor_andThen_congr {k k' : State → State}
    (h : ∀ s, (k s).withoutCompositor = (k' s).withoutCompositor) (o : Host.Outcome State Fault Refusal) :
    outcomeWithoutCompositor (andThen o k) = outcomeWithoutCompositor (andThen o k') := by
  cases o with
  | next s => exact congrArg Host.Outcome.next (h s)
  | fault | refused => rfl

/-- A continuation that does the same with the compositor's part left out. -/
theorem outcomeWithoutCompositor_andThen {k : State → State}
    (h : ∀ s, (k s).withoutCompositor = k s.withoutCompositor) (o : Host.Outcome State Fault Refusal) :
    outcomeWithoutCompositor (andThen o k) = andThen (outcomeWithoutCompositor o) k := by
  cases o with
  | next s => exact congrArg Host.Outcome.next (h s)
  | fault | refused => rfl

/-- From one state the two machines' ticks agree but for the compositor's part. -/
theorem outcomeWithoutCompositor_step (s : State) :
    outcomeWithoutCompositor (step s) = outcomeWithoutCompositor (stepNoCompose s) := by
  unfold step stepNoCompose
  cases s.run with
  | halted | aborted => rfl
  | paused =>
    simp only [apply_ite outcomeWithoutCompositor]
    rw [outcomeWithoutCompositor, outcomeWithoutCompositor, outcomeWithoutCompositor, State.withoutCompositor_finishTick]
  | running =>
    simp only [apply_ite outcomeWithoutCompositor]
    rw [outcomeWithoutCompositor_andThen_congr State.withoutCompositor_endTick]

/-- The tick that composes nothing does not read the compositor's part. -/
theorem outcomeWithoutCompositor_stepNoCompose (s : State) :
    outcomeWithoutCompositor (stepNoCompose s) = stepNoCompose s.withoutCompositor := by
  simp only [stepNoCompose, State.withoutCompositor_run, State.pastProgram_withoutCompositor]
  cases s.run with
  | halted | aborted => rfl
  | paused =>
    refine (apply_ite outcomeWithoutCompositor ..).trans ?_
    rw [outcomeWithoutCompositor, outcomeWithoutCompositor, State.withoutCompositor_finishTickNoCompose]
    rfl
  | running =>
    refine (apply_ite outcomeWithoutCompositor ..).trans ?_
    rw [outcomeWithoutCompositor_andThen State.withoutCompositor_endTickNoCompose, ← State.interpret_withoutCompositor]
    rfl

/-- So ticks of the two machines from states that agree but for the compositor's part agree but for it. -/
theorem outcomeWithoutCompositor_step_congr {s s' : State} (h : s.withoutCompositor = s'.withoutCompositor) :
    outcomeWithoutCompositor (step s) = outcomeWithoutCompositor (stepNoCompose s') := by
  rw [outcomeWithoutCompositor_step, outcomeWithoutCompositor_stepNoCompose, h,
    ← outcomeWithoutCompositor_stepNoCompose]

theorem outcomeWithoutCompositor_eq_next {o : Host.Outcome State Fault Refusal} {t : State} :
    outcomeWithoutCompositor o = .next t ↔ ∃ u, o = .next u ∧ u.withoutCompositor = t := by
  cases o <;> simp [outcomeWithoutCompositor]

theorem outcomeWithoutCompositor_eq_fault {o : Host.Outcome State Fault Refusal} {r : Fault} :
    outcomeWithoutCompositor o = .fault r ↔ o = .fault r := by
  cases o <;> simp [outcomeWithoutCompositor]

theorem outcomeWithoutCompositor_eq_refused {o : Host.Outcome State Fault Refusal} {r : Refusal} :
    outcomeWithoutCompositor o = .refused r ↔ o = .refused r := by
  cases o <;> simp [outcomeWithoutCompositor]

section
variable {M : Host.Core} {s : M.State} {k : Nat}

/-- A run of `k + 1` steps is its first step and a run of `k`. -/
theorem run_succ_of_next {t : M.State} (h : M.step s = .next t) : M.run (k + 1) s = M.run k t := by
  rw [Host.Core.run, h]

/-- A run stops at a fault. -/
theorem run_succ_of_fault {r : M.Fault} (h : M.step s = .fault r) : M.run (k + 1) s = .fault r := by
  rw [Host.Core.run, h]

/-- A run stops at a refusal. -/
theorem run_succ_of_refused {r : M.Refusal} (h : M.step s = .refused r) : M.run (k + 1) s = .refused r := by
  rw [Host.Core.run, h]

end

/-- Settles O27, by induction on the number of ticks. -/
theorem compositorNeverFeedsBack : Obligations.CompositorNeverFeedsBack := by
  unfold Obligations.CompositorNeverFeedsBack
  refine ⟨fun s => ⟨rfl, onlyChanges_compose s⟩, fun k => ?_⟩
  induction k with
  | zero => exact fun s s' h => congrArg Host.Outcome.next h
  | succ k ih =>
    intro s s' h
    have hstep := outcomeWithoutCompositor_step_congr h
    cases hs : step s with
    | next t =>
      obtain ⟨t', hs', ht⟩ := outcomeWithoutCompositor_eq_next.1 (hs ▸ hstep).symm
      rw [run_succ_of_next (M := core) hs, run_succ_of_next (M := coreWithoutCompositor) hs']
      exact ih t t' ht.symm
    | fault r =>
      have hs' := outcomeWithoutCompositor_eq_fault.1 (hs ▸ hstep).symm
      rw [run_succ_of_fault (M := core) hs, run_succ_of_fault (M := coreWithoutCompositor) hs']
      rfl
    | refused r =>
      have hs' := outcomeWithoutCompositor_eq_refused.1 (hs ▸ hstep).symm
      rw [run_succ_of_refused (M := core) hs, run_succ_of_refused (M := coreWithoutCompositor) hs']
      rfl

end Sys2Proof.Machine
end

section
/-! PROOFS. The run loop's part of a tick: the end test, the poll, the presentation and the timer counter
(spec/60_exceptions.md R113, R115 to R118, spec/70_reset_and_hazards.md R132). -/

namespace Sys2Proof.Machine

/-! ### The tick of each run state -/

theorem step_of_pastProgram {s : State} (hrun : s.run = .running ∨ s.run = .paused) (hp : s.pastProgram = true) :
    step s = .next s.halt := by
  obtain hrun | hrun := hrun <;> simp [step, hrun, hp]

theorem step_of_paused {s : State} (hrun : s.run = .paused) (hp : s.pastProgram = false) :
    step s = .next s.beginTick.finishTick := by
  simp [step, hrun, hp]

/-- Settles O9: the end test comes first in a running and in a paused tick. -/
theorem stepHaltsPastProgram : Obligations.StepHaltsPastProgram := by
  unfold Obligations.StepHaltsPastProgram
  exact fun s hrun hpc => step_of_pastProgram hrun (s.pastProgram_iff.2 hpc)

/-- Settles O6: the beginning of the tick clears the draw signal and the key-wait mark. -/
theorem stepRunsDecodedInstruction : Obligations.StepRunsDecodedInstruction := by
  unfold Obligations.StepRunsDecodedInstruction
  exact fun s i hrun hpc hbounds hdecode => step_of_decode hrun hpc hbounds hdecode

/-! ### Steps 5 and 6 (R103, R113) -/

section
variable {s : State}

theorem State.presentIfDrawn_of_drawn (hrun : s.run = .running) (hdraw : s.drawFlag = true) :
    s.presentIfDrawn = s.compose := if_pos ⟨hrun, hdraw⟩

theorem State.presentIfDrawn_of_not_drawn (hdraw : s.drawFlag = false) : s.presentIfDrawn = s :=
  if_neg fun h => Bool.false_ne_true (hdraw.symm.trans h.2)

theorem State.countIfRunning_of_running (hrun : s.run = .running) : s.countIfRunning = s.countTick := if_pos hrun

/-- A tick that the poll stops presents nothing and counts nothing. -/
theorem State.presentIfDrawn_countIfRunning_of_ne (hrun : s.run ≠ .running) :
    s.presentIfDrawn.countIfRunning = s := by
  rw [State.presentIfDrawn, if_neg fun h => hrun h.1, State.countIfRunning, if_neg hrun]

/-! ### Steps 4 to 6, by the answer of the poll (R110, R112, R113) -/

theorem State.pollHost_of_quit (hquit : s.drawPoll.1.running = false) :
    s.pollHost = { s with ports := s.drawPoll.2.ports, run := .halted } := by
  rw [State.pollHost, pollRunState, hquit]; rfl

theorem State.pollHost_of_pause (hgo : s.drawPoll.1.running = true) (hpause : s.drawPoll.1.paused = true) :
    s.pollHost = { s with ports := s.drawPoll.2.ports, run := .paused } := by
  rw [State.pollHost, pollRunState, hgo, hpause]; rfl

theorem State.pollHost_of_go (hgo : s.drawPoll.1.running = true) (hpause : s.drawPoll.1.paused = false) :
    s.pollHost = { s with ports := s.drawPoll.2.ports, run := .running } := by
  rw [State.pollHost, pollRunState, hgo, hpause]; rfl

theorem State.finishTick_of_quit (hquit : s.drawPoll.1.running = false) :
    s.finishTick = { s with ports := s.drawPoll.2.ports, run := .halted } := by
  have hpoll := State.pollHost_of_quit hquit
  rw [State.finishTick, State.presentIfDrawn_countIfRunning_of_ne (s := s.pollHost) (by simp [hpoll]), hpoll]

theorem State.finishTick_of_pause (hgo : s.drawPoll.1.running = true) (hpause : s.drawPoll.1.paused = true) :
    s.finishTick = { s with ports := s.drawPoll.2.ports, run := .paused } := by
  have hpoll := State.pollHost_of_pause hgo hpause
  rw [State.finishTick, State.presentIfDrawn_countIfRunning_of_ne (s := s.pollHost) (by simp [hpoll]), hpoll]

theorem State.finishTick_of_go_of_drawn (hgo : s.drawPoll.1.running = true) (hpause : s.drawPoll.1.paused = false)
    (hdraw : s.drawFlag = true) :
    s.finishTick = ({ s with ports := s.drawPoll.2.ports, run := .running } : State).compose.countTick := by
  have hpoll := State.pollHost_of_go hgo hpause
  have hrun : s.pollHost.run = .running := congrArg State.run hpoll
  rw [State.finishTick, State.presentIfDrawn_of_drawn hrun hdraw,
    State.countIfRunning_of_running (s := s.pollHost.compose) hrun, hpoll]

theorem State.finishTick_of_go_of_not_drawn (hgo : s.drawPoll.1.running = true)
    (hpause : s.drawPoll.1.paused = false) (hdraw : s.drawFlag = false) :
    s.finishTick = ({ s with ports := s.drawPoll.2.ports, run := .running } : State).countTick := by
  have hpoll := State.pollHost_of_go hgo hpause
  have hrun : s.pollHost.run = .running := congrArg State.run hpoll
  rw [State.finishTick, State.presentIfDrawn_of_not_drawn (s := s.pollHost) hdraw,
    State.countIfRunning_of_running hrun, hpoll]

end

/-- Settles O11, answer by answer of the poll. -/
theorem tickPollsPresentsAndCounts : Obligations.TickPollsPresentsAndCounts := by
  unfold Obligations.TickPollsPresentsAndCounts
  refine fun s => ⟨fun hstop => ?_, fun hrun hwait => ?_⟩
  · obtain hrun | hwait := hstop
    · exact State.endTick_of_run_ne hrun
    · exact State.endTick_of_keyWaiting hwait
  · have hgoes : ({ s with ports := s.drawPoll.2.ports } : State) =
        { s with ports := s.drawPoll.2.ports, run := .running } := by rw [← hrun]
    rw [State.endTick_eq, if_pos ⟨hrun, hwait⟩, hgoes]
    exact ⟨State.finishTick_of_quit, State.finishTick_of_pause, State.finishTick_of_go_of_drawn,
      State.finishTick_of_go_of_not_drawn⟩

/-- Settles O12: the beginning of the tick takes the draw signal down, so nothing is presented. -/
theorem pausedTickOnlyPolls : Obligations.PausedTickOnlyPolls := by
  unfold Obligations.PausedTickOnlyPolls
  intro s hrun hpc
  rw [step_of_paused hrun (s.pastProgram_eq_false_iff.2 hpc)]
  refine ⟨fun hquit => ?_, fun hgo hpause => ?_, fun hgo hpause => ?_⟩
  · exact congrArg _ (State.finishTick_of_quit (s := s.beginTick) hquit)
  · exact congrArg _ (State.finishTick_of_pause (s := s.beginTick) hgo hpause)
  · exact congrArg _ (State.finishTick_of_go_of_not_drawn (s := s.beginTick) hgo hpause rfl)

/-! ### Timer events (R16, R17, R117, R118) -/

theorem toNat_timerDown (t : Byte) : (timerDown t).toNat = t.toNat - 1 := by
  unfold timerDown
  split <;> bv_omega

theorem State.timerEvent_dt (s : State) : s.timerEvent.dt = timerDown s.dt := by
  unfold State.timerEvent; split <;> rfl

theorem State.timerEvent_st (s : State) : s.timerEvent.st = timerDown s.st := by
  unfold State.timerEvent; split <;> rfl

theorem State.timerEvent_pc (s : State) : s.timerEvent.pc = s.pc := by
  unfold State.timerEvent; split <;> rfl

theorem State.timerEvent_events (s : State) :
    s.timerEvent.events = s.events ++ List.replicate (min 1 s.st.toNat) .bell := by
  unfold State.timerEvent
  split
  · next hst => simp [hst]
  · next hst =>
    have hbell : min 1 s.st.toNat = 1 := by bv_omega
    simp [hbell]

theorem onlyChanges_emit (s : State) (e : Event) : OnlyChanges [] [.events] s (s.emit e) := by
  refine ⟨fun _ _ => rfl, fun p hp => ?_⟩
  cases p with
  | events => exact absurd List.mem_cons_self hp
  | memory => exact fun _ => rfl
  | _ => rfl

theorem onlyChanges_timerEvent (s : State) : OnlyChanges [] [.delayTimer, .soundTimer, .events] s s.timerEvent := by
  unfold State.timerEvent
  split
  · exact onlyChanges_timers
  · exact OnlyChanges.trans onlyChanges_timers ((onlyChanges_emit _ _).mono (by simp))

/-- Settles O13, by induction on the number of events: the last one goes on from what the others left. -/
theorem timerEventsCountDownAndRing : Obligations.TimerEventsCountDownAndRing := by
  unfold Obligations.TimerEventsCountDownAndRing
  intro n s
  induction n with
  | zero => exact ⟨rfl, rfl, by simp, rfl, onlyChanges_refl _ _ s⟩
  | succ n ih =>
    obtain ⟨hdt, hst, hevents, hpc, hframe⟩ := ih
    rw [Function.iterate_succ_apply']
    refine ⟨?_, ?_, ?_, (State.timerEvent_pc _).trans hpc, hframe.trans (onlyChanges_timerEvent _)⟩
    · rw [State.timerEvent_dt, toNat_timerDown, hdt, Nat.sub_sub]
    · rw [State.timerEvent_st, toNat_timerDown, hst, Nat.sub_sub]
    · have hbells : min n s.st.toNat + min 1 (s.st.toNat - n) = min (n + 1) s.st.toNat := by omega
      rw [State.timerEvent_events, hst, hevents, List.append_assoc, List.replicate_append_replicate, hbells]

/-! ### The timer counter (R24) -/

theorem State.countTick_of_ne {s : State} (h : s.tickCtr + 1 ≠ s.cfg.timerRatio) :
    s.countTick = { s with tickCtr := s.tickCtr + 1 } := if_neg h

theorem State.countTick_of_eq {s : State} (h : s.tickCtr + 1 = s.cfg.timerRatio) :
    s.countTick = { s with tickCtr := 0 }.timerEvent := if_pos h

theorem State.with_tickCtr_zero {s : State} (h0 : s.tickCtr = 0) : { s with tickCtr := 0 } = s := by rw [← h0]

/-- Below TIMER_RATIO a counted tick only counts. -/
theorem State.iterate_countTick_of_lt {s : State} (h0 : s.tickCtr = 0) {k : Nat} (hk : k < s.cfg.timerRatio) :
    State.countTick^[k] s = { s with tickCtr := k } := by
  induction k with
  | zero => exact (State.with_tickCtr_zero h0).symm
  | succ k ih =>
    rw [Function.iterate_succ_apply', ih (Nat.lt_of_succ_lt hk)]
    exact State.countTick_of_ne hk.ne

/-- Settles O14: the counter reaches TIMER_RATIO - 1 by counting, and the next counted tick is the event. -/
theorem timerEventEveryRatioTicks : Obligations.TimerEventEveryRatioTicks := by
  unfold Obligations.TimerEventEveryRatioTicks
  refine fun s hratio h0 => ⟨fun k => State.iterate_countTick_of_lt h0, ?_⟩
  obtain ⟨k, hk⟩ := Nat.exists_eq_add_of_le' hratio
  rw [hk, Function.iterate_succ_apply', State.iterate_countTick_of_lt h0 (hk ▸ Nat.lt_succ_self k),
    State.countTick_of_eq hk.symm, State.with_tickCtr_zero h0]

end Sys2Proof.Machine
end

section
/-! PROOFS. The answers of an instruction: a next state, a fatal condition of the table, or the refusal of a key wait
answered outside its contract (spec/60_exceptions.md R105, R108, R110), and the run states that have a step (R114). -/

namespace Sys2Proof.Machine

/-! ### The origin policy and the bounds, against the table (R79, R105) -/

theorem originPolicy_eq_faultX (xwrap ywrap : WrapPolicy) (x0 y0 : Byte) :
    originPolicy xwrap ywrap x0 y0 = .faultX ↔ 64 ≤ x0.toNat ∧ xwrap = .fault := by
  by_cases hx : 64 ≤ x0.toNat <;> by_cases hy : 32 ≤ y0.toNat <;> cases xwrap <;> cases ywrap <;>
    simp [originPolicy, hx, hy]

/-- A fault on the Y axis is reported only where the X axis has none (R110). -/
theorem originPolicy_eq_faultY (xwrap ywrap : WrapPolicy) (x0 y0 : Byte) :
    originPolicy xwrap ywrap x0 y0 = .faultY ↔
      ¬ (64 ≤ x0.toNat ∧ xwrap = .fault) ∧ 32 ≤ y0.toNat ∧ ywrap = .fault := by
  by_cases hx : 64 ≤ x0.toNat <;> by_cases hy : 32 ≤ y0.toNat <;> cases xwrap <;> cases ywrap <;>
    simp [originPolicy, hx, hy]

/-- An axis that wraps wherever it is out of range meets no condition on another policy. -/
theorem WrapPolicy.not_and_eq_of_wrap {p : Prop} {policy q : WrapPolicy} (h : p → policy = .wrap) (hq : q ≠ .wrap) :
    ¬ (p ∧ policy = q) :=
  fun ⟨hp, hpolicy⟩ => hq (hpolicy.symm.trans (h hp))

theorem boundsCondition_eq_some {count : Nat} {s : State} (h : 4096 < effectiveAddress s 0 + count) (h0 : 0 < count) :
    fatalCondition.boundsCondition count s = some (.memoryBounds (max (effectiveAddress s 0) 4096)) :=
  if_pos ⟨h0, by simp only [effectiveAddress] at h; omega⟩

section
variable {s : State} {x y n : BitVec 4}

theorem fatalCondition_drw_of_faultX
    (h : originPolicy s.cfg.xwrap s.cfg.ywrap (s.reg x) (s.reg y) = .faultX) :
    fatalCondition (.drw x y n) s = some (.drawFaultX (s.reg x)) := by
  rw [fatalCondition, if_pos ((originPolicy_eq_faultX ..).1 h)]

theorem fatalCondition_drw_of_faultY
    (h : originPolicy s.cfg.xwrap s.cfg.ywrap (s.reg x) (s.reg y) = .faultY) :
    fatalCondition (.drw x y n) s = some (.drawFaultY (s.reg y)) := by
  obtain ⟨hx, hy⟩ := (originPolicy_eq_faultY ..).1 h
  rw [fatalCondition, if_neg hx, if_pos hy]

theorem fatalCondition_drw_of_suppressed
    (h : originPolicy s.cfg.xwrap s.cfg.ywrap (s.reg x) (s.reg y) = .suppressed) :
    fatalCondition (.drw x y n) s = none := by
  obtain ⟨hclip, hx, hy⟩ := (originPolicy_eq_suppressed ..).1 h
  rw [fatalCondition, if_neg hx, if_neg hy, if_pos hclip]

/-- A draw that goes ahead reads the rows it draws (R80). -/
theorem fatalCondition_drw_of_draw {cx : Fin 64} {cy : Fin 32}
    (h : originPolicy s.cfg.xwrap s.cfg.ywrap (s.reg x) (s.reg y) = .draw cx cy) :
    fatalCondition (.drw x y n) s = fatalCondition.boundsCondition (rowsDrawn s.cfg.ywrap cy n) s := by
  obtain ⟨hx, hy, -, hcy⟩ := (originPolicy_eq_draw ..).1 h
  have hfaultX := WrapPolicy.not_and_eq_of_wrap hx (q := .fault) nofun
  have hfaultY := WrapPolicy.not_and_eq_of_wrap hy (q := .fault) nofun
  have hclip := not_or.2 ⟨WrapPolicy.not_and_eq_of_wrap hx (q := .clip) nofun,
    WrapPolicy.not_and_eq_of_wrap hy (q := .clip) nofun⟩
  rw [fatalCondition, if_neg hfaultX, if_neg hfaultY, if_neg hclip, rowsDrawn_eq, hcy]

end

/-! ### The answer of an instruction -/

/-- What an instruction answers in a state, and what the table of fatal conditions says there. The table tests `sp`
against STACK_LIMIT for equality, so a full stack agrees with it within the range of `sp` (R15). -/
inductive Answer (i : Instr) (s : State) : Host.Outcome State Fault Refusal → Prop where
  | fatal {c : Cause} (htable : s.sp ≤ s.cfg.stackLimit.toNat → fatalCondition i s = some c) :
      Answer i s (.next (raiseFatal c (some (encode i)) s))
  /-- it goes on, or a quit in a key wait ends the run (R86) -/
  | completes {t : State} (hrun : t.run = s.run ∨ t.run = .halted) (htable : fatalCondition i s = none) :
      Answer i s (.next t)
  | refused {x : RegIdx} {key : Byte} (hi : i = .ldVxK x) (hbreach : s.keyWaitBreach = some key) :
      Answer i s (.refused (.keyWaitOutOfContract key))

/-- A checked access at `I` follows the table's bounds (R33). -/
theorem answer_withBounds {i : Instr} {s : State} {count : Nat} {body : State → State}
    (htable : fatalCondition i s = fatalCondition.boundsCondition count s) (hbody : (body s).run = s.run) :
    Answer i s (.next (withBounds (effectiveAddress s 0) count (some (encode i)) body s)) := by
  by_cases hb : effectiveAddress s 0 + count ≤ 4096 ∨ count = 0
  · rw [withBounds_of_le hb]
    exact .completes (.inl hbody) (htable.trans ((boundsCondition_eq_none count s).2 hb.symm))
  · rw [withBounds_of_lt (by omega) (by omega)]
    exact .fatal fun _ => htable.trans (boundsCondition_eq_some (by omega) (by omega))

/-- No answer of the host to a key wait aborts the run (R86). -/
theorem State.run_finishKeyWait (s : State) (x : RegIdx) (a : KeyWaitAnswer) :
    (s.finishKeyWait x a).run = s.run ∨ (s.finishKeyWait x a).run = .halted := by
  cases a with
  | pending => exact .inl rfl
  | answered key quit =>
    cases quit
    · exact .inl rfl
    · exact .inr rfl

/-- The answer of every instruction. The instructions named below branch; every other one is a single update and no row
of the table. -/
theorem exec_answer (i : Instr) (s : State) : Answer i s (exec i s) := by
  cases i
  case ret =>
    simp only [exec, execRet]
    split
    · next hsp => exact .fatal fun _ => if_pos hsp
    · next hsp => exact .completes (.inl rfl) (if_neg hsp)
  case jp nnn =>
    obtain hnnn | hnnn := Nat.lt_or_ge nnn.toNat 0x200
    · rw [exec_jp_of_lt s hnnn]; exact .fatal fun _ => if_pos hnnn
    · rw [exec_jp_of_le s hnnn]; exact .completes (.inl rfl) (if_neg (Nat.not_lt.2 hnnn))
  case call nnn =>
    obtain hroom | hfull := Nat.lt_or_ge s.sp s.cfg.stackLimit.toNat
    · have htable : fatalCondition (.call nnn) s = if nnn.toNat < 0x200 then some (.jumpTargetRange nnn) else none :=
        if_neg hroom.ne
      obtain hnnn | hnnn := Nat.lt_or_ge nnn.toNat 0x200
      · rw [exec_call_of_room_of_lt hroom hnnn]; exact .fatal fun _ => htable.trans (if_pos hnnn)
      · rw [exec_call_of_room_of_le hroom hnnn]
        exact .completes (.inl rfl) (htable.trans (if_neg (Nat.not_lt.2 hnnn)))
    · rw [exec_call_of_full hfull]; exact .fatal fun hle => if_pos (hle.antisymm hfull)
  case skp x =>
    obtain hkey | hkey := Nat.lt_or_ge (s.reg x).toNat 16
    · rw [exec_skp_of_lt hkey]; exact .completes (.inl rfl) (if_neg (Nat.not_le.2 hkey))
    · rw [exec_skp_of_le hkey]; exact .fatal fun _ => if_pos hkey
  case sknp x =>
    obtain hkey | hkey := Nat.lt_or_ge (s.reg x).toNat 16
    · rw [exec_sknp_of_lt hkey]; exact .completes (.inl rfl) (if_neg (Nat.not_le.2 hkey))
    · rw [exec_sknp_of_le hkey]; exact .fatal fun _ => if_pos hkey
  case ldVxK x =>
    simp only [exec, execLdVxK]
    split
    · next hbreach => exact .refused rfl hbreach
    · exact .completes (State.run_finishKeyWait s.drawKeyWait.2 x _) rfl
  case drw x y n =>
    simp only [exec, execDrw]
    split
    · next h => exact .fatal fun _ => fatalCondition_drw_of_faultX h
    · next h => exact .fatal fun _ => fatalCondition_drw_of_faultY h
    · next h => exact .completes (.inl rfl) (fatalCondition_drw_of_suppressed h)
    · next h => exact answer_withBounds (fatalCondition_drw_of_draw h) rfl
  case ldB | storeRegs | loadRegs => exact answer_withBounds rfl rfl
  all_goals exact .completes (.inl rfl) rfl

/-- An answer that aborts a running machine is the fatal condition of its cause. -/
theorem Answer.eq_raiseFatal {i : Instr} {s t : State} {c : Cause} (h : Answer i s (.next t)) (hrun : s.run = .running)
    (habort : t.run = .aborted c) :
    t = raiseFatal c (some (encode i)) s ∧ (s.sp ≤ s.cfg.stackLimit.toNat → fatalCondition i s = some c) := by
  cases h with
  | fatal htable => cases habort; exact ⟨rfl, htable⟩
  | completes hgo => simp [habort, hrun] at hgo

/-- Where the table names a cause, the instruction aborts the run with it. -/
theorem Answer.aborts_of_fatalCondition {i : Instr} {s : State} {o : Host.Outcome State Fault Refusal} {c : Cause}
    (h : Answer i s o) (hsp : s.sp ≤ s.cfg.stackLimit.toNat) (htable : fatalCondition i s = some c) :
    ∃ t, o = .next t ∧ t.run = .aborted c := by
  cases h with
  | fatal htable' =>
    obtain rfl := Option.some.inj ((htable' hsp).symm.trans htable)
    exact ⟨_, rfl, rfl⟩
  | completes _ hnone => cases hnone.symm.trans htable
  | refused hi => subst hi; cases htable

/-! ### The obligations -/

/-- Settles O21: only raising a fatal condition aborts, and it does nothing else. -/
theorem fatalConditionIsPrecise : Obligations.FatalConditionIsPrecise := by
  unfold Obligations.FatalConditionIsPrecise
  intro i s t c hrun hexec habort
  exact (Answer.eq_raiseFatal (hexec ▸ exec_answer i s) hrun habort).1

/-- Settles O22, from the answer of the instruction in each direction. -/
theorem fatalConditionsAreTheTabulated : Obligations.FatalConditionsAreTheTabulated := by
  unfold Obligations.FatalConditionsAreTheTabulated
  refine fun i s c hrun hsp => ⟨?_, (exec_answer i s).aborts_of_fatalCondition hsp⟩
  rintro ⟨t, hexec, habort⟩
  exact (Answer.eq_raiseFatal (hexec ▸ exec_answer i s) hrun habort).2 hsp

/-- A breach of the key-wait contract is the next listed answer; a free answer is none. -/
theorem State.keyWait_of_breach {s : State} {key : Byte} (h : s.keyWaitBreach = some key) :
    ∃ rest, s.ports.keyWait = .answered key false :: rest ∧ 16 ≤ key.toNat := by
  unfold State.keyWaitBreach at h
  split at h
  · next k rest hports =>
    split at h
    · cases h
    · next hkey => cases h; exact ⟨rest, hports, Nat.not_lt.1 ((keyOk_iff _).not.1 hkey)⟩
  · cases h

/-- Settles O20: the one answer that is no next state is the refusal of a broken contract. -/
theorem everyInstructionAnswersNext : Obligations.EveryInstructionAnswersNext := by
  unfold Obligations.EveryInstructionAnswersNext
  intro i s
  have h := exec_answer i s
  cases hexec : exec i s with
  | next t => exact .inl ⟨t, rfl⟩
  | fault r => rw [hexec] at h; cases h
  | refused r =>
    rw [hexec] at h
    cases h with
    | refused hi hbreach =>
      obtain ⟨rest, hports, hkey⟩ := State.keyWait_of_breach hbreach
      exact .inr ⟨_, _, rest, hi, hports, hkey, rfl⟩

/-! ### Which run states have a step (R114) -/

/-- The interpretation of one word answers a next state or refuses a key-wait answer outside the contract. -/
theorem State.interpret_answers (s : State) :
    (∃ t, s.interpret = .next t) ∨ ∃ key, s.interpret = .refused (.keyWaitOutOfContract key) := by
  unfold State.interpret
  split
  · exact .inl ⟨_, rfl⟩
  · unfold execWord
    split
    · next i _ =>
      obtain hnext | ⟨-, key, -, -, -, -, hrefused⟩ := everyInstructionAnswersNext i s
      · exact .inl hnext
      · exact .inr ⟨key, hrefused⟩
    · exact .inl ⟨_, rfl⟩

/-- Settles O10: a running tick inside the program answers as its instruction does, every other one a next state. -/
theorem terminalRunStatesHaveNoStep : Obligations.TerminalRunStatesHaveNoStep := by
  unfold Obligations.TerminalRunStatesHaveNoStep
  refine fun s => ⟨fun hrun => by simp [step, hrun], fun c hrun => by simp [step, hrun], fun hrun => ?_⟩
  cases hp : s.pastProgram with
  | true => exact .inl ⟨s.halt, step_of_pastProgram hrun hp⟩
  | false =>
    obtain hrun | hrun := hrun
    · rw [step_of_running hrun hp]
      obtain ⟨t, ht⟩ | ⟨key, hkey⟩ := s.beginTick.interpret_answers
      · exact .inl ⟨t.endTick, by rw [ht, andThen_next]⟩
      · exact .inr ⟨key, by rw [hkey, andThen_refused]⟩
    · exact .inl ⟨s.beginTick.finishTick, step_of_paused hrun hp⟩

end Sys2Proof.Machine
end

section
/-! PROOFS. A word loaded where the next fetch is made (spec/20_memory.md R31, spec/70_reset_and_hazards.md R129), and
the return from a call (R135). -/

namespace Sys2Proof.Machine

/-! ### The loaded word -/

theorem tableWord_toNat (w : Word) : tableWord 16 w.toNat = w := by
  rw [tableWord, Nat.mod_eq_of_lt w.isLt, BitVec.ofNat_toNat, BitVec.setWidth_eq]

theorem decodeTableWord_toNat (w : Word) : decodeTableWord 16 w.toNat = decodeWord w := by
  rw [decodeTableWord, tableWord_toNat, wordBytes, decode, wordOfBytes_bytes]
  cases decodeWord w <;> rfl

/-- Two bytes of memory lie at the fetch address. -/
theorem State.fetchAddress_le (s : State) : s.fetchAddress.toNat + 2 ≤ 4096 := by
  unfold State.fetchAddress
  split
  · assumption
  · decide

theorem State.byteAt_withFetchWord (s : State) (w : Word) (a : Nat) :
    (s.withFetchWord 16 w.toNat).byteAt a = (s.mem.writeBytes s.fetchAddress.toNat (wordBytes w)).read a := by
  rw [State.byteAt, State.withFetchWord, tableWord_toNat]

theorem State.fetch_withFetchWord (s : State) (w : Word) :
    (s.withFetchWord 16 w.toNat).beginTick.fetch = .word w := by
  have hhi : (s.withFetchWord 16 w.toNat).byteAt s.fetchAddress.toNat = highByte w := by
    rw [State.byteAt_withFetchWord, Memory.read_writeBytes]
    simp [wordBytes]
  have hlo : (s.withFetchWord 16 w.toNat).byteAt (s.fetchAddress.toNat + 1) = lowByte w := by
    rw [State.byteAt_withFetchWord, Memory.read_writeBytes]
    simp [wordBytes]
  refine (State.fetch_of_le s.fetchAddress_le).trans (congrArg Fetch.word ?_)
  exact (congrArg₂ wordOfBytes hhi hlo).trans (wordOfBytes_bytes w)

/-- The program reaches past the loaded word. -/
theorem State.pastProgram_withFetchWord (s : State) (w : Word) : (s.withFetchWord 16 w.toNat).pastProgram = false := by
  refine (State.pastProgram_eq_false_iff _).2 ?_
  simp only [State.withFetchWord, progBase]
  omega

theorem onlyChanges_withFetchWord (s : State) (nbits w : Nat) :
    OnlyChanges [] [.memory, .romlength, .runState] s (s.withFetchWord nbits w) := by
  refine ⟨fun _ _ => rfl, fun p hp => ?_⟩
  cases p with
  | memory | romlength | runState => simp at hp
  | _ => rfl

/-- Settles O28: the tick fetches, from the fetch address, the word stored there. -/
theorem fetchWordRunsNext : Obligations.FetchWordRunsNext := by
  unfold Obligations.FetchWordRunsNext
  refine fun s w => ⟨?_, decodeTableWord_toNat w, onlyChanges_withFetchWord s 16 w.toNat, fun hpc => ?_,
    fun a hne hne' => ?_⟩
  · rw [step_of_running rfl (s.pastProgram_withFetchWord w), State.interpret, s.fetch_withFetchWord w]
  · exact if_pos (by simp only [memSize]; omega)
  · have hpc : (s.withFetchWord 16 w.toNat).pc = s.fetchAddress := rfl
    rw [hpc] at hne hne'
    rw [State.byteAt_withFetchWord, Memory.read_writeBytes_outside _ _ _ _ (by simp only [wordBytes, List.length]; omega),
      State.byteAt]

/-! ### The return from a call -/

/-- Settles O34: the slot a return pops is the one the call stored its address in. -/
theorem returnUndoesCall : Obligations.ReturnUndoesCall := by
  unfold Obligations.ReturnUndoesCall
  intro s nnn hroom hnnn
  refine ⟨_, exec_call_of_room_of_le hroom hnnn, fun u hsp hstack => ?_⟩
  have hslot : s.sp < 16 := hroom.trans_le (StackLimit.toNat_le _)
  have hpushed : (s.push s.pc).stack[s.sp] = s.pc := (s.getElem_push_stack s.pc ⟨s.sp, hslot⟩).trans (if_pos rfl)
  refine ⟨_, exec_ret_of_sp_eq_succ hslot hsp, ?_, ?_⟩
  · simp only [State.setPc_pc, hstack, State.setPc_stack, hpushed]
  · rw [State.setPc_sp, State.pop_sp, hsp]
    rfl

end Sys2Proof.Machine
end
